-- ==== Sys2Proof/Word.lean ====
section
/-! DEFINITION. The words of PPLUT-FBW: the widths of spec/00_scope.md R9 and of the two bit formats of spec/30_encoding.md. -/

namespace Sys2Proof

/-- One 32-bit word of the host port (DATA_BITS, R9). -/
abbrev Word := BitVec 32

/-- A 14-bit byte address within the block (ADDR_BITS, R9). -/
abbrev Addr := BitVec 14

/-- A transaction's key K[14:0] = W followed by A[13:0] (R70). -/
abbrev Key := BitVec 15

/-- A 16-bit colour, copied and never interpreted (COLOR_BITS, R9, R10). -/
abbrev Colour := BitVec 16

/-- An 8-bit palette index (INDEX_BITS, R9). -/
abbrev Index := BitVec 8

/-- A 16-bit coordinate of the sink (COORD_BITS, R9, R64). -/
abbrev Coord := BitVec 16

/-- A host transaction, format HT (R70). -/
abbrev HT := BitVec 47

/-- A sink event word, format SE (R74). -/
abbrev SE := BitVec 49

end Sys2Proof
end

