-- ==== Sys2Proof/Config.lean ====
section
/-! DEFINITION. What an instance of the block fixes (spec/00_scope.md R9) and what the spec leaves open
(spec/93_implementation_defined.md). Every constant here is opaque: no proof sees its value. -/

namespace Sys2Proof

/-- How reset is asserted (R220, parameter RESET_SOURCE). -/
inductive Config.ResetSource where
  | powerOn
  | pin
  | platformRegister
deriving DecidableEq, Repr, Inhabited

/-- PANEL_W less one. -/
opaque Config.panelWLess1 : Fin 4096

/-- PANEL_H less one. -/
opaque Config.panelHLess1 : Fin 4096

/-- PANEL_W, OPEN, an integer 1..4096 (R9). Log entry 7. -/
def Config.panelW : Nat := Config.panelWLess1.val + 1

/-- PANEL_H, OPEN, an integer 1..4096 (R9). Log entry 7. -/
def Config.panelH : Nat := Config.panelHLess1.val + 1

/-- FREE VALUE: what LUT entry `n` holds between the reset numbered `epoch` and the first write of the entry (R34: UNSPECIFIED;
R131: a draw, a free 16-bit input). Log entry 5. -/
opaque Config.unwrittenLut (epoch : Nat) (n : Index) : Colour

/-- BASE_ADDR, OPEN: where the block's map sits in the host's own address space (R58). Nothing in the block depends on it. Log entry 18. -/
opaque Config.baseAddr : Nat

/-- RESET_SOURCE, OPEN (R220). Nothing in the block depends on it: the reset agent may step at any time. Log entry 18. -/
opaque Config.resetSource : Config.ResetSource

/-- The host platform's address of a byte address of the block (R58). -/
def Config.hostAddress (a : Addr) : Nat := Config.baseAddr + a.toNat

end Sys2Proof
end

