-- ==== Sys2Proof/Syntax.lean ====
section
/-! DEFINITION. The operations of PPLUT-FBW: every mnemonic of spec/opcode_table.json (spec/00_scope.md R3) with the operands of
spec/30_encoding.md R73, and the packets of bits they are decoded from. -/

namespace Sys2Proof

/-- The opcode table's mnemonics, spelt as it spells them. -/
inductive Mnemonic where
  | RD_CTRL | WR_CTRL | RD_STATUS | WR_STATUS | RD_ROW_Y | WR_ROW_Y | RD_OFFSET | WR_OFFSET
  | RD_WIDTH | WR_WIDTH | RD_META | WR_META | RD_CAPS | WR_CAPS | RD_LUT | WR_LUT | RD_IDX | WR_IDX
  | RESERVED_RD | RESERVED_WR | ROW | PIXEL_WRITE | PRESENT
deriving DecidableEq, Repr

/-- One operation with its operands. Ignored bits (A[1:0], the data of a read, reserved data bits: R52, R70, R73) are no operands.
Log entries 14 and 15. -/
inductive Instr where
  /-- R103. -/
  | rdCtrl
  /-- R102: `go` = D[0]. -/
  | wrCtrl (go : Bool)
  /-- R104. -/
  | rdStatus
  /-- R105: D[1] and D[2]. -/
  | wrStatus (clearWerr clearGoerr : Bool)
  /-- R109. -/
  | rdRowY
  /-- R110: Y = D[15:0]. -/
  | wrRowY (y : BitVec 16)
  /-- R111. -/
  | rdOffset
  /-- R112: X_OFF = D[15:0], Y_OFF = D[31:16]. -/
  | wrOffset (x y : BitVec 16)
  /-- R113. -/
  | rdWidth
  /-- R114: W = D[15:0]. -/
  | wrWidth (w : BitVec 16)
  /-- R115. -/
  | rdMeta
  /-- R116: D[7:0], D[15:8], D[16], D[19:17], D[20]. -/
  | wrMeta (transp bg : Index) (hasTransp : Bool) (disposal : BitVec 3) (lastRow : Bool)
  /-- R117. -/
  | rdCaps
  /-- R118. -/
  | wrCaps
  /-- R131: n = A[9:2]. -/
  | rdLut (n : Index)
  /-- R130: n = A[9:2], c = D[15:0]. -/
  | wrLut (n : Index) (c : Colour)
  /-- R141: w = A[11:2]. -/
  | rdIdx (w : BitVec 10)
  /-- R140: w = A[11:2], the four lanes of D, lane 0 first. -/
  | wrIdx (w : BitVec 10) (b0 b1 b2 b3 : Index)
  /-- R106: the unmapped word address A[13:2]. -/
  | reservedRd (a : BitVec 12)
  /-- R107: the unmapped word address A[13:2]. -/
  | reservedWr (a : BitVec 12)
  /-- R150. -/
  | row
  /-- R170. -/
  | pixelWrite (x y : Coord) (c : Colour)
  /-- R171. -/
  | present
deriving DecidableEq, Repr

/-- The mnemonic of an operation. -/
def Instr.mnemonic : Instr → Mnemonic
  | .rdCtrl => .RD_CTRL
  | .wrCtrl _ => .WR_CTRL
  | .rdStatus => .RD_STATUS
  | .wrStatus _ _ => .WR_STATUS
  | .rdRowY => .RD_ROW_Y
  | .wrRowY _ => .WR_ROW_Y
  | .rdOffset => .RD_OFFSET
  | .wrOffset _ _ => .WR_OFFSET
  | .rdWidth => .RD_WIDTH
  | .wrWidth _ => .WR_WIDTH
  | .rdMeta => .RD_META
  | .wrMeta _ _ _ _ _ => .WR_META
  | .rdCaps => .RD_CAPS
  | .wrCaps => .WR_CAPS
  | .rdLut _ => .RD_LUT
  | .wrLut _ _ => .WR_LUT
  | .rdIdx _ => .RD_IDX
  | .wrIdx _ _ _ _ _ => .WR_IDX
  | .reservedRd _ => .RESERVED_RD
  | .reservedWr _ => .RESERVED_WR
  | .row => .ROW
  | .pixelWrite _ _ _ => .PIXEL_WRITE
  | .present => .PRESENT

/-- What an agent puts before the decoder: a host transaction (format HT, R70), the engine's step (format ENGINE, no bits, R150), or
a sink event word (format SE, R74). -/
inductive Packet where
  | transaction (ht : HT)
  | engineStep
  | sinkEvent (se : SE)
deriving DecidableEq, Repr

/-- Why a packet has no operation. -/
inductive DecodeError where
  /-- A sink event word with TYPE = 1 and a nonzero bit in [47:0]: never issued, outside the spec (R76). Safe. Log entry 11. -/
  | presentPayload (se : SE)
deriving DecidableEq, Repr

/-- What a word address of the host register space selects (R58). -/
inductive Place where
  | ctrl | status | rowY | offset | width | metaWord | caps
  /-- Entry `n` of the LUT window. -/
  | lut (n : Index)
  /-- Word `w` of the IDX window. -/
  | idx (w : BitVec 10)
  /-- An unmapped word address A[13:2]. -/
  | unmapped (a : BitVec 12)
deriving DecidableEq, Repr

end Sys2Proof
end

