-- ==== Sys2Proof/WellFormed.lean ====
section
/-! DEFINITION. Which operations the encoding of spec/30_encoding.md can spell. Every operand fills its field, so the one check is
that the word address of RESERVED_RD and RESERVED_WR is an unmapped one (spec/20_memory.md R58). -/

namespace Sys2Proof

/-- The word addresses A[13:2] that R58 leaves unmapped: byte offsets 0x001C..0x03FF, 0x0800..0x0FFF and 0x2000..0x3FFF. -/
def unmappedWord (a : BitVec 12) : Bool :=
  decide (7 ≤ a.toNat ∧ a.toNat < 256) || decide (512 ≤ a.toNat ∧ a.toNat < 1024) || decide (2048 ≤ a.toNat)

/-- An operation the encoding can spell. -/
def Instr.wellFormed : Instr → Bool
  | .reservedRd a => unmappedWord a
  | .reservedWr a => unmappedWord a
  | .rdCtrl | .wrCtrl _ | .rdStatus | .wrStatus _ _ | .rdRowY | .wrRowY _ | .rdOffset | .wrOffset _ _ => true
  | .rdWidth | .wrWidth _ | .rdMeta | .wrMeta _ _ _ _ _ | .rdCaps | .wrCaps => true
  | .rdLut _ | .wrLut _ _ | .rdIdx _ | .wrIdx _ _ _ _ _ | .row | .pixelWrite _ _ _ | .present => true

end Sys2Proof
end

