-- ==== Sys2Proof/Decode.lean ====
section
/-! DEFINITION. Decoding and encoding (spec/30_encoding.md R70 to R76): the fields of a host transaction, the address map of
spec/20_memory.md R58, the operand assembly of R73, the sink event words of R74, the opcode map of R72 as a table, and the
numbering of spec/opcode_table.json. -/

namespace Sys2Proof

/-- W, bit 46 (R70). -/
def htWrite (ht : HT) : Bool := ht.getLsbD 46

/-- A[13:0], bits 45:32 (R70). -/
def htAddr (ht : HT) : Addr := ht.extractLsb' 32 14

/-- D[31:0] (R70). -/
def htData (ht : HT) : Word := ht.extractLsb' 0 32

/-- The key K[14:0] = HT[46:32] (R70). -/
def htKey (ht : HT) : Key := ht.extractLsb' 32 15

/-- The transaction with these three fields (R70). -/
def htMake (write : Bool) (a : Addr) (d : Word) : HT :=
  (BitVec.ofBool write).setWidth 47 <<< 46 ||| a.setWidth 47 <<< 32 ||| d.setWidth 47

/-- The host address map (R58) over the word address A[13:2]; A[1:0] is ignored (R52). -/
def addressMap (a : Addr) : Place :=
  let word := a.extractLsb' 2 12
  if word = 0 then .ctrl
  else if word = 1 then .status
  else if word = 2 then .rowY
  else if word = 3 then .offset
  else if word = 4 then .width
  else if word = 5 then .metaWord
  else if word = 6 then .caps
  else if a.extractLsb' 10 4 = 1 then .lut (a.extractLsb' 2 8)
  else if a.extractLsb' 12 2 = 1 then .idx (a.extractLsb' 2 10)
  else .unmapped word

/-- The read operation at an address (R72, W = 0). -/
def decodeRead (a : Addr) : Instr :=
  match addressMap a with
  | .ctrl => .rdCtrl
  | .status => .rdStatus
  | .rowY => .rdRowY
  | .offset => .rdOffset
  | .width => .rdWidth
  | .metaWord => .rdMeta
  | .caps => .rdCaps
  | .lut n => .rdLut n
  | .idx w => .rdIdx w
  | .unmapped w => .reservedRd w

/-- The write operation at an address (R72, W = 1), its operands assembled from D (R73). -/
def decodeWrite (a : Addr) (d : Word) : Instr :=
  match addressMap a with
  | .ctrl => .wrCtrl (d.getLsbD 0)
  | .status => .wrStatus (d.getLsbD 1) (d.getLsbD 2)
  | .rowY => .wrRowY (d.extractLsb' 0 16)
  | .offset => .wrOffset (d.extractLsb' 0 16) (d.extractLsb' 16 16)
  | .width => .wrWidth (d.extractLsb' 0 16)
  | .metaWord => .wrMeta (d.extractLsb' 0 8) (d.extractLsb' 8 8) (d.getLsbD 16) (d.extractLsb' 17 3) (d.getLsbD 20)
  | .caps => .wrCaps
  | .lut n => .wrLut n (d.extractLsb' 0 16)
  | .idx w => .wrIdx w (d.extractLsb' 0 8) (d.extractLsb' 8 8) (d.extractLsb' 16 8) (d.extractLsb' 24 8)
  | .unmapped w => .reservedWr w

/-- The operation of a host transaction: total on all 2^47 of them (R72, R75). -/
def decodeHT (ht : HT) : Instr :=
  if htWrite ht then decodeWrite (htAddr ht) (htData ht) else decodeRead (htAddr ht)

/-- The event of a sink event word (R74); TYPE = 1 with a nonzero payload is refused by name (R76). -/
def decodeSE (se : SE) : Except DecodeError Instr :=
  if se.getLsbD 48 then
    if se.extractLsb' 0 48 = 0 then .ok .present else .error (.presentPayload se)
  else .ok (.pixelWrite (se.extractLsb' 32 16) (se.extractLsb' 16 16) (se.extractLsb' 0 16))

/-- The operation of a packet. -/
def decode : Packet → Except DecodeError Instr
  | .transaction ht => .ok (decodeHT ht)
  | .engineStep => .ok .row
  | .sinkEvent se => decodeSE se

/-- The byte address of a word address, A[1:0] = 0 (R52). -/
def wordAddr (word : BitVec 12) : Addr := word.setWidth 14 <<< 2

/-- A read transaction of a word address: D = 0, A[1:0] = 0 (R70, R77). -/
def encodeRead (word : BitVec 12) : Packet := .transaction (htMake false (wordAddr word) 0)

/-- A write transaction of a word address: A[1:0] = 0 (R77). -/
def encodeWrite (word : BitVec 12) (d : Word) : Packet := .transaction (htMake true (wordAddr word) d)

/-- LUT entry `n` is at byte offset 0x0400 + 4n (R31). -/
def lutWord (n : Index) : BitVec 12 := 0x100#12 ||| n.setWidth 12

/-- IDX word `w` is at byte offset 0x1000 + 4w (R32). -/
def idxWord (w : BitVec 10) : BitVec 12 := 0x400#12 ||| w.setWidth 12

/-- META's fields at their bit positions (R28): (LAST_ROW << 20) OR (DISPOSAL << 17) OR (HAS_TRANSP << 16) OR (BG_IDX << 8) OR
TRANSP_IDX (R115). -/
def metaBits (t b : Index) (h : Bool) (d : BitVec 3) (l : Bool) : Word :=
  (BitVec.ofBool l).setWidth 32 <<< 20 ||| d.setWidth 32 <<< 17 ||| (BitVec.ofBool h).setWidth 32 <<< 16 |||
    b.setWidth 32 <<< 8 ||| t.setWidth 32

/-- Four indices in a word, lane k in bits [8k+7 : 8k] (R50). -/
def laneBits (b0 b1 b2 b3 : Index) : Word :=
  b3.setWidth 32 <<< 24 ||| b2.setWidth 32 <<< 16 ||| b1.setWidth 32 <<< 8 ||| b0.setWidth 32

/-- The bits of a well-formed operation, every ignored bit 0 (R70, R73, R74). -/
def encode : Instr → Packet
  | .rdCtrl => encodeRead 0
  | .wrCtrl go => encodeWrite 0 ((BitVec.ofBool go).setWidth 32)
  | .rdStatus => encodeRead 1
  | .wrStatus cw cg => encodeWrite 1 ((BitVec.ofBool cg).setWidth 32 <<< 2 ||| (BitVec.ofBool cw).setWidth 32 <<< 1)
  | .rdRowY => encodeRead 2
  | .wrRowY y => encodeWrite 2 (y.setWidth 32)
  | .rdOffset => encodeRead 3
  | .wrOffset x y => encodeWrite 3 (y.setWidth 32 <<< 16 ||| x.setWidth 32)
  | .rdWidth => encodeRead 4
  | .wrWidth w => encodeWrite 4 (w.setWidth 32)
  | .rdMeta => encodeRead 5
  | .wrMeta t b h d l => encodeWrite 5 (metaBits t b h d l)
  | .rdCaps => encodeRead 6
  | .wrCaps => encodeWrite 6 0
  | .rdLut n => encodeRead (lutWord n)
  | .wrLut n c => encodeWrite (lutWord n) (c.setWidth 32)
  | .rdIdx w => encodeRead (idxWord w)
  | .wrIdx w b0 b1 b2 b3 => encodeWrite (idxWord w) (laneBits b0 b1 b2 b3)
  | .reservedRd a => encodeRead a
  | .reservedWr a => encodeWrite a 0
  | .row => .engineStep
  | .pixelWrite x y c => .sinkEvent (x.setWidth 49 <<< 32 ||| y.setWidth 49 <<< 16 ||| c.setWidth 49)
  | .present => .sinkEvent (1#49 <<< 48)

/-- One row of the opcode map: a key selects it when (key AND mask) = match (R72). -/
structure TableRow where
  mnemonic : Mnemonic
  pattern : Key
  mask : Key
deriving DecidableEq, Repr

/-- A key `k` selects a row when (k AND mask) = match (R72). -/
def TableRow.selects (r : TableRow) (k : Key) : Bool := k &&& r.mask == r.pattern

/-- R72's rows of the mapped registers and windows. -/
def mappedRows : List TableRow :=
  [⟨.RD_CTRL, 0x0000, 0x7FFC⟩, ⟨.WR_CTRL, 0x4000, 0x7FFC⟩,
   ⟨.RD_STATUS, 0x0004, 0x7FFC⟩, ⟨.WR_STATUS, 0x4004, 0x7FFC⟩,
   ⟨.RD_ROW_Y, 0x0008, 0x7FFC⟩, ⟨.WR_ROW_Y, 0x4008, 0x7FFC⟩,
   ⟨.RD_OFFSET, 0x000C, 0x7FFC⟩, ⟨.WR_OFFSET, 0x400C, 0x7FFC⟩,
   ⟨.RD_WIDTH, 0x0010, 0x7FFC⟩, ⟨.WR_WIDTH, 0x4010, 0x7FFC⟩,
   ⟨.RD_META, 0x0014, 0x7FFC⟩, ⟨.WR_META, 0x4014, 0x7FFC⟩,
   ⟨.RD_CAPS, 0x0018, 0x7FFC⟩, ⟨.WR_CAPS, 0x4018, 0x7FFC⟩,
   ⟨.RD_LUT, 0x0400, 0x7C00⟩, ⟨.WR_LUT, 0x4400, 0x7C00⟩,
   ⟨.RD_IDX, 0x1000, 0x7000⟩, ⟨.WR_IDX, 0x5000, 0x7000⟩]

/-- R72's rows of the unmapped addresses. -/
def reservedRows : List TableRow :=
  [⟨.RESERVED_RD, 0x001C, 0x7FFC⟩, ⟨.RESERVED_RD, 0x0020, 0x7FE0⟩,
   ⟨.RESERVED_RD, 0x0040, 0x7FC0⟩, ⟨.RESERVED_RD, 0x0080, 0x7F80⟩,
   ⟨.RESERVED_RD, 0x0100, 0x7F00⟩, ⟨.RESERVED_RD, 0x0200, 0x7E00⟩,
   ⟨.RESERVED_RD, 0x0800, 0x7800⟩, ⟨.RESERVED_RD, 0x2000, 0x6000⟩,
   ⟨.RESERVED_WR, 0x401C, 0x7FFC⟩, ⟨.RESERVED_WR, 0x4020, 0x7FE0⟩,
   ⟨.RESERVED_WR, 0x4040, 0x7FC0⟩, ⟨.RESERVED_WR, 0x4080, 0x7F80⟩,
   ⟨.RESERVED_WR, 0x4100, 0x7F00⟩, ⟨.RESERVED_WR, 0x4200, 0x7E00⟩,
   ⟨.RESERVED_WR, 0x4800, 0x7800⟩, ⟨.RESERVED_WR, 0x6000, 0x6000⟩]

/-- The opcode map of R72, row for row. The decoder above is written from the address map; that the two agree is a law. -/
def opcodeTable : List TableRow := mappedRows ++ reservedRows

/-- The packet of a table row's word. The table numbers a transaction in two ways: its key alone, K[0] at bit 0 (`match`, `fixed`),
and the whole of HT (`match_ht`). A word below 2^15 is read as the key, its data 0; a larger one as HT. No bits at all is the
engine's row; more than 48 is a sink event word. Log entry 12. -/
def tablePacket (nbits w : Nat) : Option Packet :=
  if nbits = 0 then some .engineStep
  else if nbits ≤ 48 then
    if w < 2 ^ 15 then some (.transaction (BitVec.ofNat 47 w <<< 32))
    else if w < 2 ^ 47 then some (.transaction (BitVec.ofNat 47 w))
    else none
  else if nbits ≤ 56 ∧ w < 2 ^ 49 then some (.sinkEvent (BitVec.ofNat 49 w))
  else none

/-- The operation the decoder reads from a table row's word. -/
def decodeTableWord (nbits w : Nat) : Option Instr :=
  match tablePacket nbits w with
  | some p =>
    match decode p with
    | .ok i => some i
    | .error _ => none
  | none => none

end Sys2Proof
end

