-- ==== Sys2Proof/Machine/State.lean ====
section
/-! DEFINITION. The state of PPLUT-FBW (spec/10_state.md), the reasons a step can stop, and the state after reset (R39, R220). -/

namespace Sys2Proof.Machine

/-- A sparse memory: listed cells, numbers strictly rising. A cell that is not listed has not been written since reset: it holds no
value (R34), and the listing of a cell is its written bit. Log entries 4 and 13. -/
abbrev Memory (α : Type) := List (Nat × α)

/-- The canonical form of a memory: cell numbers strictly rising. -/
abbrev Memory.wf {α : Type} (m : Memory α) : Prop := m.Pairwise (fun a b => a.1 < b.1)

/-- An event the block issues on its sink port (R38, R74). -/
inductive SinkEvent where
  /-- PIXEL_WRITE(x, y, c), R170. -/
  | pixelWrite (x y : Coord) (c : Colour)
  /-- PRESENT, R171. -/
  | present
deriving DecidableEq, Repr

/-- One move of one agent (R11, R204). -/
inductive Move where
  /-- The host's transaction, the engine's step, or a sink event word alone (log entry 9). -/
  | packet (p : Packet)
  /-- A step of the reset agent (R220). -/
  | reset
deriving DecidableEq, Repr

/-- Everything the spec gives the machine (R20, R23 to R35, R38), and three fields that are the model's own: `responses`, `inbox`
and `resets`. -/
structure State where
  /-- STATUS.BUSY (R24): 1 exactly while a row is pending (R35). -/
  busy : Bool
  /-- STATUS.WERR (R24), sticky. -/
  werr : Bool
  /-- STATUS.GOERR (R24), sticky. -/
  goerr : Bool
  /-- ROW_Y.Y (R25). -/
  rowY : BitVec 16
  /-- OFFSET.X_OFF (R26), two's complement when used. -/
  xOff : BitVec 16
  /-- OFFSET.Y_OFF (R26), two's complement when used. -/
  yOff : BitVec 16
  /-- WIDTH.W (R27), as written, not clamped. -/
  width : BitVec 16
  /-- META.TRANSP_IDX (R28). -/
  transpIdx : Index
  /-- META.BG_IDX (R28). -/
  bgIdx : Index
  /-- META.HAS_TRANSP (R28). -/
  hasTransp : Bool
  /-- META.DISPOSAL (R28, R29). -/
  disposal : BitVec 3
  /-- META.LAST_ROW (R28). -/
  lastRow : Bool
  /-- PANEL_W, the constant of CAPS[15:0] (R30). -/
  panelW : Nat
  /-- PANEL_H, the constant of CAPS[31:16] (R30). -/
  panelH : Nat
  /-- The palette LUT with its written bits LUT_WR (R31, R34). -/
  lut : List (Nat × Colour)
  /-- IDX RAM with its written bits IDX_WR (R32, R34). -/
  idx : List Host.Cell
  /-- The sink event sequence, oldest first (R38). -/
  events : List SinkEvent
  /-- The response words RD[31:0] of the host's reads, oldest first (R70). The model's own. Log entry 8. -/
  responses : List Word
  /-- The agents' moves to come, the next one first. The model's own. Log entry 1. -/
  inbox : List Move
  /-- How many resets have been taken; it names the LUT's free values of this reset. The model's own. Log entry 6. -/
  resets : Nat
deriving DecidableEq, Repr

/-- Why a run stops with a fault. Both are model faults that the hardware does not signal (R202). -/
inductive Fault where
  /-- UnwrittenLUT(n): a ROW step looks up an entry not written since reset (R132). Raised by ROW. Safe. -/
  | unwrittenLUT (n : Index)
  /-- UnwrittenIDX(i): a ROW step reads a column not written since reset (R142). Raised by ROW. Safe. -/
  | unwrittenIDX (i : Nat)
deriving DecidableEq, Repr

/-- Why a step has no meaning. -/
inductive Refusal where
  /-- An instruction without a meaning in exec. Safe. -/
  | notModelled (mnemonic : String)
  /-- A packet with no operation: a sink event word outside the spec (R76). Raised by step. Safe. Log entry 11. -/
  | undecodable (e : DecodeError)
deriving DecidableEq, Repr

/-- The machine right after reset (R39): every register 0, CAPS the instance's constant, LUT and IDX RAM unwritten, no row pending,
no events issued since. The model's own fields are empty or 0 (log entries 1, 6, 8). -/
def State.reset : State where
  busy := false
  werr := false
  goerr := false
  rowY := 0
  xOff := 0
  yOff := 0
  width := 0
  transpIdx := 0
  bgIdx := 0
  hasTransp := false
  disposal := 0
  lastRow := false
  panelW := Config.panelW
  panelH := Config.panelH
  lut := []
  idx := []
  events := []
  responses := []
  inbox := []
  resets := 0

end Sys2Proof.Machine
end

