-- ==== Sys2Proof/Machine/Flags.lean ====
section
/-! DEFINITION. The three STATUS flags (spec/10_state.md R24), the only flags of the block (R22): how they are read, set and cleared. -/

namespace Sys2Proof.Machine

/-- A row is pending exactly while BUSY = 1 (R35). -/
def State.rowPending (s : State) : Bool := s.busy

/-- The STATUS word: bit 0 BUSY, bit 1 WERR, bit 2 GOERR, bits 31:3 zero (R104). -/
def State.statusWord (s : State) : Word :=
  (BitVec.ofBool s.goerr).setWidth 32 <<< 2 ||| (BitVec.ofBool s.werr).setWidth 32 <<< 1 ||| (BitVec.ofBool s.busy).setWidth 32

/-- Write BUSY. -/
def State.setBusy (s : State) (b : Bool) : State := { s with busy := b }

/-- Write WERR. -/
def State.setWerr (s : State) (b : Bool) : State := { s with werr := b }

/-- Write GOERR. -/
def State.setGoerr (s : State) (b : Bool) : State := { s with goerr := b }

/-- A GO: accepted while idle, discarded with GOERR during the BUSY window (R102). -/
def State.takeGo (s : State) : State := if s.busy then s.setGoerr true else s.setBusy true

/-- Clear the error flags that are asked for; BUSY is read-only (R105). -/
def State.clearErrors (s : State) (clearWerr clearGoerr : Bool) : State :=
  (s.setWerr (s.werr && !clearWerr)).setGoerr (s.goerr && !clearGoerr)

end Sys2Proof.Machine
end

