-- ==== Sys2Proof/Machine/Ops.lean ====
section
/-! DEFINITION. The named operations over the memories, the registers, the two ports and the agents' moves. The block has no
exceptions (spec/60_exceptions.md R200, R205), so no operation takes one; reset is the one whole-machine event (R220). -/

namespace Sys2Proof.Machine

/-- What cell `k` holds; `none` when it has not been written since reset (R34). -/
def Memory.read {α : Type} (m : Memory α) (k : Nat) : Option α :=
  match m with
  | [] => none
  | (k', v) :: rest => if k = k' then some v else Memory.read rest k

/-- Store `v` in cell `k`, keeping the canonical form; the cell is written from then on (R34). -/
def Memory.write {α : Type} (m : Memory α) (k : Nat) (v : α) : Memory α :=
  match m with
  | [] => [(k, v)]
  | (k', v') :: rest =>
    if k < k' then (k, v) :: (k', v') :: rest
    else if k = k' then (k, v) :: rest
    else (k', v') :: Memory.write rest k v

/-- LUT entry `n` (R31). -/
def State.lutAt (s : State) (n : Index) : Option Colour := Memory.read s.lut n.toNat

/-- IDX RAM column `i` (R32). -/
def State.idxAt (s : State) (i : Nat) : Option Index := Memory.read s.idx i

/-- The written bit LUT_WR[n] (R34). -/
def State.lutWr (s : State) (n : Index) : Bool := (s.lutAt n).isSome

/-- The written bit IDX_WR[i] (R34). -/
def State.idxWr (s : State) (i : Nat) : Bool := (s.idxAt i).isSome

/-- What the host reads from LUT entry `n`: its colour, or the free value of an entry not written since reset (R131). Log entry 5. -/
def State.lutOut (s : State) (n : Index) : Colour := (s.lutAt n).getD (Config.unwrittenLut s.resets n)

/-- Write LUT entry `n` (R130). -/
def State.putLut (s : State) (n : Index) (c : Colour) : State := { s with lut := Memory.write s.lut n.toNat c }

/-- IDX_WORDS = ceil(PANEL_W / 4) (R9). -/
def State.idxWords (s : State) : Nat := (s.panelW + 3) / 4

/-- Store one lane of an IDX word; a lane at or past PANEL_W is discarded (R140). -/
def State.putLane (s : State) (col : Nat) (b : Index) : State :=
  if col < s.panelW then { s with idx := Memory.write s.idx col b } else s

/-- Store an IDX word's four lanes, lane k in column 4w + k (R50, R140); an unbacked word is ignored (R71, R140). -/
def State.putIdx (s : State) (w : BitVec 10) (b0 b1 b2 b3 : Index) : State :=
  if w.toNat < s.idxWords then
    (((s.putLane (4 * w.toNat) b0).putLane (4 * w.toNat + 1) b1).putLane (4 * w.toNat + 2) b2).putLane (4 * w.toNat + 3) b3
  else s

/-- Write ROW_Y (R110). -/
def State.putRowY (s : State) (y : BitVec 16) : State := { s with rowY := y }

/-- Write OFFSET; the fields are stored unchanged (R112). -/
def State.putOffset (s : State) (x y : BitVec 16) : State := { s with xOff := x, yOff := y }

/-- Write WIDTH; any value is accepted (R114). -/
def State.putWidth (s : State) (w : BitVec 16) : State := { s with width := w }

/-- Write META's five fields (R116). -/
def State.putMeta (s : State) (t b : Index) (h : Bool) (d : BitVec 3) (l : Bool) : State :=
  { s with transpIdx := t, bgIdx := b, hasTransp := h, disposal := d, lastRow := l }

/-- The OFFSET word, Y_OFF above X_OFF (R111). -/
def State.offsetWord (s : State) : Word := s.yOff.setWidth 32 <<< 16 ||| s.xOff.setWidth 32

/-- The META word (R115). -/
def State.metaWord (s : State) : Word := metaBits s.transpIdx s.bgIdx s.hasTransp s.disposal s.lastRow

/-- The CAPS word, PANEL_H above PANEL_W (R117). -/
def State.capsWord (s : State) : Word :=
  (BitVec.ofNat 16 s.panelH).setWidth 32 <<< 16 ||| (BitVec.ofNat 16 s.panelW).setWidth 32

/-- Return a read's response word to the host (R70, R100). Log entry 8. -/
def State.respond (s : State) (w : Word) : State := { s with responses := s.responses ++ [w] }

/-- Issue events on the sink port; the sink accepts them in order (R57, R170, R171; log entry 17). -/
def State.issue (s : State) (es : List SinkEvent) : State := { s with events := s.events ++ es }

/-- The guard of every row-resource write: during the BUSY window set WERR and discard the write (R108). -/
def State.guarded (s : State) (write : State → State) : State := if s.busy then s.setWerr true else write s

/-- The reset agent's step (R220, R221): every register, written bit and pending row at its reset value; CAPS keeps its constant;
events issued stay issued. The host's responses and the moves to come are no state of the block and stay. Log entry 20. -/
def State.resetStep (s : State) : State :=
  { State.reset with
    panelW := s.panelW, panelH := s.panelH, events := s.events, responses := s.responses, inbox := s.inbox,
    resets := s.resets + 1 }

/-- The next move and the state with it taken: the first of the inbox; with an empty inbox the engine's step when a row is pending
(weak fairness, R233), and none when the block is idle (R211). Log entries 1 and 2. -/
def State.nextMove (s : State) : Option (Move × State) :=
  match s.inbox with
  | m :: rest => some (m, { s with inbox := rest })
  | [] => if s.busy then some (.packet .engineStep, s) else none

/-- Put a packet where the next step takes it; the engine's step also needs a pending row (R150: enabled when BUSY = 1). Log entry 16. -/
def State.place (s : State) (p : Packet) : State :=
  { s with inbox := .packet p :: s.inbox, busy := s.busy || decide (p = .engineStep) }

end Sys2Proof.Machine
end

