-- ==== Sys2Proof/Machine/Operands.lean ====
section
/-! DEFINITION. The operands of the ROW operation (spec/43_row_compositor.md R151 to R158), each a function of the row resources. -/

namespace Sys2Proof.Machine

/-- W_eff = min(WIDTH.W, PANEL_W) (R151). -/
def State.wEff (s : State) : Nat := min s.width.toNat s.panelW

/-- RESTORE_BACKGROUND, the one value of META.DISPOSAL with a behaviour; 0, 1 and 3..7 mean no restoration (R29). -/
def restoreBackground : BitVec 3 := 2

/-- The restore test: META.DISPOSAL = 2, no other META field (R152). -/
def State.restore (s : State) : Bool := s.disposal == restoreBackground

/-- skip_enabled = (HAS_TRANSP = 1) and not restore (R154). -/
def State.skipEnabled (s : State) : Bool := s.hasTransp && !s.restore

/-- The effective index: under restore, TRANSP_IDX becomes BG_IDX, whatever HAS_TRANSP holds (R153). -/
def State.effectiveIndex (s : State) (n : Index) : Index :=
  if s.restore && n == s.transpIdx then s.bgIdx else n

/-- xs = sext_16(X_OFF) + i, exact (R155). -/
def State.sinkX (s : State) (i : Nat) : Int := s.xOff.toInt + i

/-- ys = sext_16(Y_OFF) + zext(Y), exact (R155). -/
def State.sinkY (s : State) : Int := s.yOff.toInt + s.rowY.toNat

/-- A sink position is on the panel (R157). -/
def State.onPanel (s : State) (x y : Int) : Bool :=
  decide (0 ≤ x ∧ x < s.panelW ∧ 0 ≤ y ∧ y < s.panelH)

/-- The three classes of a column (R158). -/
inductive PixelClass where
  | transparent
  | dropped
  /-- Written with this effective index. -/
  | written (n : Index)
deriving DecidableEq, Repr

/-- The class of column `i` whose index is `n`: first transparency, then the off-panel drop (R158). -/
def State.classify (s : State) (i : Nat) (n : Index) : PixelClass :=
  if s.skipEnabled && s.effectiveIndex n == s.transpIdx then .transparent
  else if s.onPanel (s.sinkX i) s.sinkY then .written (s.effectiveIndex n)
  else .dropped

end Sys2Proof.Machine
end

