-- ==== Sys2Proof/Machine/HostPort.lean ====
section
/-! DEFINITION. The host port operations (spec/40_host_port.md). A read returns one response word and changes nothing else (R100,
R119); a write has only the effects its rule names (R101); a row-resource write passes the guard of R108 first. -/

namespace Sys2Proof.Machine

/-- RD_CTRL returns 0: CTRL holds no state (R103). -/
def execRdCtrl (s : State) : Host.Outcome State Fault Refusal := .next (s.respond 0)

/-- WR_CTRL: a GO when D[0] = 1, else nothing (R102). -/
def execWrCtrl (go : Bool) (s : State) : Host.Outcome State Fault Refusal := .next (if go then s.takeGo else s)

/-- RD_STATUS (R104). -/
def execRdStatus (s : State) : Host.Outcome State Fault Refusal := .next (s.respond s.statusWord)

/-- WR_STATUS clears the error flags asked for (R105). -/
def execWrStatus (clearWerr clearGoerr : Bool) (s : State) : Host.Outcome State Fault Refusal :=
  .next (s.clearErrors clearWerr clearGoerr)

/-- RD_ROW_Y (R109). -/
def execRdRowY (s : State) : Host.Outcome State Fault Refusal := .next (s.respond (s.rowY.setWidth 32))

/-- WR_ROW_Y (R110). -/
def execWrRowY (y : BitVec 16) (s : State) : Host.Outcome State Fault Refusal := .next (s.guarded (·.putRowY y))

/-- RD_OFFSET returns Y_OFF above X_OFF (R111). -/
def execRdOffset (s : State) : Host.Outcome State Fault Refusal := .next (s.respond s.offsetWord)

/-- WR_OFFSET (R112). -/
def execWrOffset (x y : BitVec 16) (s : State) : Host.Outcome State Fault Refusal := .next (s.guarded (·.putOffset x y))

/-- RD_WIDTH returns the stored value, not W_eff (R113). -/
def execRdWidth (s : State) : Host.Outcome State Fault Refusal := .next (s.respond (s.width.setWidth 32))

/-- WR_WIDTH (R114). -/
def execWrWidth (w : BitVec 16) (s : State) : Host.Outcome State Fault Refusal := .next (s.guarded (·.putWidth w))

/-- RD_META returns the values the host wrote (R115). -/
def execRdMeta (s : State) : Host.Outcome State Fault Refusal := .next (s.respond s.metaWord)

/-- WR_META (R116). -/
def execWrMeta (t b : Index) (h : Bool) (d : BitVec 3) (l : Bool) (s : State) : Host.Outcome State Fault Refusal :=
  .next (s.guarded (·.putMeta t b h d l))

/-- RD_CAPS (R117). -/
def execRdCaps (s : State) : Host.Outcome State Fault Refusal := .next (s.respond s.capsWord)

/-- WR_CAPS changes nothing and sets no flag, BUSY or not (R118). -/
def execWrCaps (s : State) : Host.Outcome State Fault Refusal := .next s

/-- RESERVED_RD returns 0 (R106). -/
def execReservedRd (_a : BitVec 12) (s : State) : Host.Outcome State Fault Refusal := .next (s.respond 0)

/-- RESERVED_WR changes nothing and sets no flag, BUSY or not (R107). -/
def execReservedWr (_a : BitVec 12) (s : State) : Host.Outcome State Fault Refusal := .next s

end Sys2Proof.Machine
end

