-- ==== Sys2Proof/Machine/IndexBuffer.lean ====
section
/-! DEFINITION. The index buffer's operations (spec/42_index_buffer.md): RD_IDX, WR_IDX and the engine's IdxRead. -/

namespace Sys2Proof.Machine

/-- RD_IDX returns 0: the IDX window is write-only (R141). -/
def execRdIdx (_w : BitVec 10) (s : State) : Host.Outcome State Fault Refusal := .next (s.respond 0)

/-- WR_IDX stores the four lanes of a backed word, behind the guard of R108, backed or not (R140, R71). -/
def execWrIdx (w : BitVec 10) (b0 b1 b2 b3 : Index) (s : State) : Host.Outcome State Fault Refusal :=
  .next (s.guarded (·.putIdx w b0 b1 b2 b3))

/-- IdxRead(i): the index of column i, or the model fault UnwrittenIDX(i) (R142). -/
def State.idxRead (s : State) (i : Nat) : Except Fault Index :=
  match s.idxAt i with
  | some n => .ok n
  | none => .error (.unwrittenIDX i)

end Sys2Proof.Machine
end

