-- ==== Sys2Proof/Machine/PaletteLut.lean ====
section
/-! DEFINITION. The palette LUT's operations (spec/41_palette_lut.md): RD_LUT, WR_LUT and the engine's Lookup. -/

namespace Sys2Proof.Machine

/-- RD_LUT returns the entry, or a free 16-bit value when it has not been written since reset (R131). -/
def execRdLut (n : Index) (s : State) : Host.Outcome State Fault Refusal := .next (s.respond ((s.lutOut n).setWidth 32))

/-- WR_LUT (R130), behind the guard of R108. -/
def execWrLut (n : Index) (c : Colour) (s : State) : Host.Outcome State Fault Refusal := .next (s.guarded (·.putLut n c))

/-- Lookup(n): the entry unchanged, or the model fault UnwrittenLUT(n) (R132). -/
def State.lookup (s : State) (n : Index) : Except Fault Colour :=
  match s.lutAt n with
  | some c => .ok c
  | none => .error (.unwrittenLUT n)

end Sys2Proof.Machine
end

