-- ==== Sys2Proof/Machine/RowCompositor.lean ====
section
/-! DEFINITION. The row compositor (spec/43_row_compositor.md): the atomic ROW step, column by column, left to right (R150, R160). -/

namespace Sys2Proof.Machine

/-- What column `i` does: IdxRead always, Lookup only for a written pixel, and then one PIXEL_WRITE (R150, R156, R158). -/
def State.columnEvents (s : State) (i : Nat) : Except Fault (List SinkEvent) :=
  match s.idxRead i with
  | .error f => .error f
  | .ok n =>
    match s.classify i n with
    | .transparent => .ok []
    | .dropped => .ok []
    | .written m =>
      match s.lookup m with
      | .error f => .error f
      | .ok c => .ok [.pixelWrite (BitVec.ofInt 16 (s.sinkX i)) (BitVec.ofInt 16 s.sinkY) c]

/-- The events of a list of columns, in order; the first fault stops the step. -/
def State.columnsEvents (s : State) : List Nat → Except Fault (List SinkEvent)
  | [] => .ok []
  | i :: rest =>
    match s.columnEvents i with
    | .error f => .error f
    | .ok es =>
      match s.columnsEvents rest with
      | .error f => .error f
      | .ok es' => .ok (es ++ es')

/-- The PIXEL_WRITE events of columns 0 .. W_eff-1 (R150, R151). -/
def State.rowPixels (s : State) : Except Fault (List SinkEvent) := s.columnsEvents (List.range s.wEff)

/-- PRESENT after the row's last write when LAST_ROW = 1, whatever the row wrote (R159). -/
def State.presentEvents (s : State) : List SinkEvent := if s.lastRow then [.present] else []

/-- ROW (R150): enabled when BUSY = 1, it issues the row's events and clears BUSY, in one step. With no row pending the engine has
nothing to do (R211; log entry 3); a step that faults issues nothing (log entry 21). -/
def execRow (s : State) : Host.Outcome State Fault Refusal :=
  if s.busy then
    match s.rowPixels with
    | .error f => .fault f
    | .ok es => .next ((s.issue (es ++ s.presentEvents)).setBusy false)
  else .next s

end Sys2Proof.Machine
end

