-- ==== Sys2Proof/Machine/SinkPort.lean ====
section
/-! DEFINITION. The two sink events taken alone (spec/43_row_compositor.md R170, R171): each is the append of one event to the sink
event sequence. In the block only ROW issues them (log entry 9). -/

namespace Sys2Proof.Machine

/-- PIXEL_WRITE: issue the event; a position off the panel issues no event and sets no flag (R157, R170; log entry 10). -/
def execPixelWrite (x y : Coord) (c : Colour) (s : State) : Host.Outcome State Fault Refusal :=
  .next (if s.onPanel x.toNat y.toNat then s.issue [.pixelWrite x y c] else s)

/-- PRESENT: issue the event (R171). -/
def execPresent (s : State) : Host.Outcome State Fault Refusal := .next (s.issue [.present])

end Sys2Proof.Machine
end

