-- ==== Sys2Proof/Machine/Dispatch.lean ====
section
/-! DEFINITION. exec: one arm per operation of spec/opcode_table.json, each one call of its meaning. -/

namespace Sys2Proof.Machine

def exec (i : Instr) (s : State) : Host.Outcome State Fault Refusal :=
  match i with
  | .rdCtrl => Sys2Proof.Machine.execRdCtrl s
  | .wrCtrl go => Sys2Proof.Machine.execWrCtrl go s
  | .rdStatus => Sys2Proof.Machine.execRdStatus s
  | .wrStatus cw cg => Sys2Proof.Machine.execWrStatus cw cg s
  | .rdRowY => Sys2Proof.Machine.execRdRowY s
  | .wrRowY y => Sys2Proof.Machine.execWrRowY y s
  | .rdOffset => Sys2Proof.Machine.execRdOffset s
  | .wrOffset x y => Sys2Proof.Machine.execWrOffset x y s
  | .rdWidth => Sys2Proof.Machine.execRdWidth s
  | .wrWidth w => Sys2Proof.Machine.execWrWidth w s
  | .rdMeta => Sys2Proof.Machine.execRdMeta s
  | .wrMeta t b h d l => Sys2Proof.Machine.execWrMeta t b h d l s
  | .rdCaps => Sys2Proof.Machine.execRdCaps s
  | .wrCaps => Sys2Proof.Machine.execWrCaps s
  | .rdLut n => Sys2Proof.Machine.execRdLut n s
  | .wrLut n c => Sys2Proof.Machine.execWrLut n c s
  | .rdIdx w => Sys2Proof.Machine.execRdIdx w s
  | .wrIdx w b0 b1 b2 b3 => Sys2Proof.Machine.execWrIdx w b0 b1 b2 b3 s
  | .reservedRd a => Sys2Proof.Machine.execReservedRd a s
  | .reservedWr a => Sys2Proof.Machine.execReservedWr a s
  | .row => Sys2Proof.Machine.execRow s
  | .pixelWrite x y c => Sys2Proof.Machine.execPixelWrite x y c s
  | .present => Sys2Proof.Machine.execPresent s

end Sys2Proof.Machine
end

