-- ==== Sys2Proof/Machine/Step.lean ====
section
/-! DEFINITION. One step of the machine: one atomic move of one agent (spec/60_exceptions.md R204), without time (log entry 19). -/

namespace Sys2Proof.Machine

/-- One step: take the next move; a packet is decoded and executed, a reset resets the block, and with no move the block is idle. -/
def step (s : State) : Host.Outcome State Fault Refusal :=
  match s.nextMove with
  | none => .next s
  | some (.reset, s') => .next s'.resetStep
  | some (.packet p, s') =>
    match decode p with
    | .ok i => exec i s'
    | .error e => .refused (.undecodable e)

/-- `s` with a table row's word placed as the next move. Log entries 12 and 16. -/
def State.withFetchWord (s : State) (nbits w : Nat) : State :=
  match tablePacket nbits w with
  | some p => s.place p
  | none => s

end Sys2Proof.Machine
end

