-- ==== Sys2Proof/Machine/Script.lean ====
section
/-! DEFINITION. The host script of spec/30_encoding.md R77 and R78: the names of addresses and the pseudo-operations, as the
transactions they expand to. Nothing in the block reads it; tests and statements are written with it. -/

namespace Sys2Proof.Machine

/-- `RD <addr>`: HT = W 0, the address, data 0 (R77). -/
def Script.rd (a : Addr) : HT := htMake false a 0

/-- `WR <addr>, <data32>` (R77). -/
def Script.wr (a : Addr) (d : Word) : HT := htMake true a d

/-- CTRL (R58). -/
def Script.CTRL : Addr := 0x0000
/-- STATUS (R58). -/
def Script.STATUS : Addr := 0x0004
/-- ROW_Y (R58). -/
def Script.ROW_Y : Addr := 0x0008
/-- OFFSET (R58). -/
def Script.OFFSET : Addr := 0x000C
/-- WIDTH (R58). -/
def Script.WIDTH : Addr := 0x0010
/-- META (R58). -/
def Script.META : Addr := 0x0014
/-- CAPS (R58). -/
def Script.CAPS : Addr := 0x0018
/-- `LUT+n` = 0x0400 + 4n (R77). -/
def Script.LUT (n : Nat) : Addr := BitVec.ofNat 14 (0x0400 + 4 * n)
/-- `IDX+w` = 0x1000 + 4w (R77). -/
def Script.IDX (w : Nat) : Addr := BitVec.ofNat 14 (0x1000 + 4 * w)

/-- `GO` (R78). -/
def Script.go : HT := Script.wr Script.CTRL 0x00000001

/-- `CLRERR` (R78). -/
def Script.clrErr : HT := Script.wr Script.STATUS 0x00000006

/-- `POLL <addr>, …` with `n` reads more than one: one or more RD transactions; how many is the host's loop (R78). -/
def Script.poll (a : Addr) (n : Nat) : List HT := List.replicate (n + 1) (Script.rd a)

/-- `WAIT_IDLE` with `n` reads more than one (R78). -/
def Script.waitIdle (n : Nat) : List HT := Script.poll Script.STATUS n

/-- `SETPAL n, c` (R78). -/
def Script.setPal (n : Index) (c : Colour) : HT := Script.wr (Script.LUT n.toNat) (c.setWidth 32)

/-- `SETIDX w, b0, b1, b2, b3`: b0 goes to column 4w (R78). -/
def Script.setIdx (w : BitVec 10) (b0 b1 b2 b3 : Index) : HT := Script.wr (Script.IDX w.toNat) (laneBits b0 b1 b2 b3)

/-- `SETY y` (R78). -/
def Script.setY (y : BitVec 16) : HT := Script.wr Script.ROW_Y (y.setWidth 32)

/-- `SETOFF xo, yo`, each in 16-bit two's complement (R78). -/
def Script.setOff (xo yo : Int) : HT := Script.wr Script.OFFSET ((BitVec.ofInt 16 yo).setWidth 32 <<< 16 ||| (BitVec.ofInt 16 xo).setWidth 32)

/-- `SETW w` (R78). -/
def Script.setW (w : BitVec 16) : HT := Script.wr Script.WIDTH (w.setWidth 32)

/-- `SETMETA t, bg, ht, disp, last` (R78). -/
def Script.setMeta (t bg : Index) (ht : Bool) (disp : BitVec 3) (last : Bool) : HT :=
  Script.wr Script.META (metaBits t bg ht disp last)

end Sys2Proof.Machine
end

