-- ==== Sys2Proof/Safety.lean ====
section
/-! DEFINITION. The terms in which claims about PPLUT-FBW are stated: the invariant of its states, when a row can be composited, what
two states share as far as a ROW step can tell, which operations are reads and row-resource writes, and the source's own run
procedure (spec/43_row_compositor.md R160). -/

namespace Sys2Proof

/-- The six row-resource writes of R108. -/
def Instr.isRowWrite : Instr → Bool
  | .wrRowY _ | .wrOffset _ _ | .wrWidth _ | .wrMeta _ _ _ _ _ | .wrLut _ _ | .wrIdx _ _ _ _ _ => true
  | .rdCtrl | .wrCtrl _ | .rdStatus | .wrStatus _ _ | .rdRowY | .rdOffset | .rdWidth | .rdMeta | .rdCaps | .wrCaps => false
  | .rdLut _ | .rdIdx _ | .reservedRd _ | .reservedWr _ | .row | .pixelWrite _ _ _ | .present => false

/-- The ten read operations of R119. -/
def Instr.isRead : Instr → Bool
  | .rdCtrl | .rdStatus | .rdRowY | .rdOffset | .rdWidth | .rdMeta | .rdCaps | .rdLut _ | .rdIdx _ | .reservedRd _ => true
  | .wrCtrl _ | .wrStatus _ _ | .wrRowY _ | .wrOffset _ _ | .wrWidth _ | .wrMeta _ _ _ _ _ | .wrCaps | .wrLut _ _ => false
  | .wrIdx _ _ _ _ _ | .reservedWr _ | .row | .pixelWrite _ _ _ | .present => false

namespace Machine

/-- A sink event the block may issue: a position on the panel (R64, R76). -/
def SinkEvent.inPanel (w h : Nat) : SinkEvent → Bool
  | .pixelWrite x y _ => decide (x.toNat < w ∧ y.toNat < h)
  | .present => true

/-- The event is a PIXEL_WRITE. -/
def SinkEvent.isPixel : SinkEvent → Bool
  | .pixelWrite _ _ _ => true
  | .present => false

/-- A move of the host: a transaction on the register port (R100, R101). -/
def Move.isHost : Move → Bool
  | .packet (.transaction _) => true
  | .packet .engineStep | .packet (.sinkEvent _) | .reset => false

/-- A move of one of the spec's own agents: not a sink event word alone (log entry 9). -/
def Move.isSpec : Move → Bool
  | .packet (.sinkEvent _) => false
  | .packet (.transaction _) | .packet .engineStep | .reset => true

/-- The invariant of the block's states: both memories in canonical form and inside their address spaces (R31, R32), the panel within
its bounds (R9), and every event issued on the panel (R64). -/
abbrev State.Inv (s : State) : Prop :=
  Memory.wf s.lut ∧ (∀ c ∈ s.lut, c.1 < 256) ∧
  Memory.wf s.idx ∧ (∀ c ∈ s.idx, c.1 < s.panelW) ∧
  (1 ≤ s.panelW ∧ s.panelW ≤ 4096) ∧ (1 ≤ s.panelH ∧ s.panelH ≤ 4096) ∧
  (∀ e ∈ s.events, e.inPanel s.panelW s.panelH = true)

/-- The LUT entry a column needs has been written, or the column needs none (R156). -/
def State.columnReady (s : State) (i : Nat) : Bool :=
  match s.idxAt i with
  | none => false
  | some n =>
    match s.classify i n with
    | .written m => s.lutWr m
    | .transparent => true
    | .dropped => true

/-- The host has done R222 steps 1 and 2: every index the row reads and every LUT entry a written pixel uses has been written. -/
def State.rowReady (s : State) : Bool := (List.range s.wEff).all s.columnReady

/-- Column `i` is in the transparent class (R158). -/
def State.isTransparent (s : State) (i : Nat) : Bool :=
  match s.idxAt i with
  | some n => s.classify i n == .transparent
  | none => false

/-- Column `i` is in the dropped class (R158). -/
def State.isDropped (s : State) (i : Nat) : Bool :=
  match s.idxAt i with
  | some n => s.classify i n == .dropped
  | none => false

/-- Two states share the row resources as far as a ROW step reads them: the row registers, the panel, columns below W_eff and the LUT
(R33, R150). -/
def State.SameRow (s t : State) : Prop :=
  s.rowY = t.rowY ∧ s.xOff = t.xOff ∧ s.yOff = t.yOff ∧ s.width = t.width ∧
  s.transpIdx = t.transpIdx ∧ s.bgIdx = t.bgIdx ∧ s.hasTransp = t.hasTransp ∧ s.disposal = t.disposal ∧ s.lastRow = t.lastRow ∧
  s.panelW = t.panelW ∧ s.panelH = t.panelH ∧
  (∀ i < s.wEff, s.idxAt i = t.idxAt i) ∧ (∀ n, s.lutAt n = t.lutAt n)

/-- The row resources of R33 and the panel are the same, entry for entry. -/
def State.SameResources (s t : State) : Prop :=
  s.rowY = t.rowY ∧ s.xOff = t.xOff ∧ s.yOff = t.yOff ∧ s.width = t.width ∧
  s.transpIdx = t.transpIdx ∧ s.bgIdx = t.bgIdx ∧ s.hasTransp = t.hasTransp ∧ s.disposal = t.disposal ∧ s.lastRow = t.lastRow ∧
  s.panelW = t.panelW ∧ s.panelH = t.panelH ∧ s.lut = t.lut ∧ s.idx = t.idx

/-- The host's transactions in turn, with no move of another agent between them (R56). -/
def State.afterHost (s : State) : List HT → Host.Outcome State Fault Refusal
  | [] => .next s
  | ht :: hts =>
    match exec (decodeHT ht) s with
    | .next t => t.afterHost hts
    | .fault f => .fault f
    | .refused r => .refused r

/-- The PIXEL_WRITE events of R150's loop, written out from its pseudocode over the registers and memories alone (a column or an entry
that has not been written contributes nothing here: the ROW step faults on it). -/
def State.loopPixels (s : State) : List SinkEvent :=
  (List.range (min s.width.toNat s.panelW)).flatMap (fun i =>
    match s.idxAt i with
    | none => []
    | some raw =>
      let n := if s.disposal = 2 ∧ raw = s.transpIdx then s.bgIdx else raw
      if s.hasTransp = true ∧ s.disposal ≠ 2 ∧ n = s.transpIdx then []
      else
        let xs : Int := s.xOff.toInt + i
        let ys : Int := s.yOff.toInt + s.rowY.toNat
        if xs < 0 ∨ (s.panelW : Int) ≤ xs ∨ ys < 0 ∨ (s.panelH : Int) ≤ ys then []
        else
          match s.lutAt n with
          | none => []
          | some c => [.pixelWrite (BitVec.ofInt 16 xs) (BitVec.ofInt 16 ys) c])

/-- The column of a PIXEL_WRITE at the sink, as a number. -/
def SinkEvent.column : SinkEvent → Option Nat
  | .pixelWrite x _ _ => some x.toNat
  | .present => none

/-- The colour of a PIXEL_WRITE. -/
def SinkEvent.colour : SinkEvent → Option Colour
  | .pixelWrite _ _ c => some c
  | .present => none

/-- The source's alternation (R160): from the columns left, a maximal opaque run, then a maximal transparent run, and again. -/
def runPairs (transparent : Nat → Bool) : Nat → List Nat → List (List Nat × List Nat)
  | 0, _ => []
  | _ + 1, [] => []
  | fuel + 1, c :: cs =>
    let left := (c :: cs).dropWhile (fun i => !transparent i)
    ((c :: cs).takeWhile (fun i => !transparent i), left.takeWhile transparent) ::
      runPairs transparent fuel (left.dropWhile transparent)

/-- The runs of a row: pairs of an opaque and a transparent run of columns 0 .. W_eff-1 (R160). -/
def State.runs (s : State) : List (List Nat × List Nat) := runPairs s.isTransparent s.wEff (List.range s.wEff)

/-- The colour an opaque column resolves to: the LUT entry of its effective index (R160 sub-phase (a)). -/
def State.resolve (s : State) (i : Nat) : Option Colour :=
  match s.idxAt i with
  | some n => s.lutAt (s.effectiveIndex n)
  | none => none

/-- Sub-phase (a): an opaque run resolved into the scratch buffer. -/
def State.scratch (s : State) (run : List Nat) : List (Nat × Option Colour) := run.map (fun i => (i, s.resolve i))

/-- Sub-phase (b): flush the scratch buffer, one write per pixel at its absolute position, off-panel pixels dropped (R157). -/
def State.flush (s : State) (buffer : List (Nat × Option Colour)) : List SinkEvent :=
  buffer.flatMap (fun p =>
    match p.2 with
    | some c =>
      if s.onPanel (s.sinkX p.1) s.sinkY then
        [.pixelWrite (BitVec.ofInt 16 (s.sinkX p.1)) (BitVec.ofInt 16 s.sinkY) c]
      else []
    | none => [])

/-- The PIXEL_WRITE events of the source's run procedure (R160): every opaque run resolved and flushed, every transparent run skipped. -/
def State.runProcedure (s : State) : List SinkEvent := s.runs.flatMap (fun r => s.flush (s.scratch r.1))

end Machine

end Sys2Proof
end

