-- ==== Sys2Proof/Certificates/Slice0/Obligations.lean ====
section
/-! DEFINITION. The statements about PPLUT-FBW, from the numbered rules of its spec. Each docstring names the rules. -/

open Sys2Proof Sys2Proof.Machine

/-! ### Encoding -/

/-- Words written out in spec/95_test_vectors.md (V38 to V44 and the programs) decode to the operations they stand for. -/
def Obligations.SpecWordsDecode : Prop :=
  decode (.transaction 0x400000000001) = .ok (.wrCtrl true) ∧
  decode (.transaction 0x000400000000) = .ok .rdStatus ∧
  decode (.transaction 0x47FC00001234) = .ok (.wrLut 255 0x1234) ∧
  decode (.transaction 0x5FFC04030201) = .ok (.wrIdx 1023 1 2 3 4) ∧
  decode (.transaction 0x400C00030006) = .ok (.wrOffset 6 3) ∧
  decode (.transaction 0x401400150009) = .ok (.wrMeta 9 0 true 2 true) ∧
  decode (.sinkEvent 0x000070000001F) = .ok (.pixelWrite 7 0 0x001F) ∧
  decode (.sinkEvent 0x0000F0007C00F) = .ok (.pixelWrite 15 7 0xC00F) ∧
  decode (.sinkEvent 0x1000000000000) = .ok .present

/-- Decoding an encoded well-formed operation gives it back, whatever its operands (R70, R72, R73, R74). -/
def Obligations.DecodeEncodeRoundTrip : Prop :=
  ∀ i : Instr, i.wellFormed = true → decode (encode i) = .ok i

/-- Every one of the 2^47 transactions decodes to a well-formed operation of the host (R75). -/
def Obligations.EveryTransactionDecodesWellFormed : Prop :=
  ∀ ht : HT, ∃ i : Instr, decode (.transaction ht) = .ok i ∧ i.wellFormed = true ∧
    i.mnemonic ≠ .ROW ∧ i.mnemonic ≠ .PIXEL_WRITE ∧ i.mnemonic ≠ .PRESENT

/-- Every key selects exactly one row of the opcode map, and the decoder gives the operation of that row (R72). -/
def Obligations.DecoderFollowsOpcodeMap : Prop :=
  ∀ ht : HT, ∃ r ∈ opcodeTable, htKey ht &&& r.mask = r.pattern ∧
    (∀ r' ∈ opcodeTable, htKey ht &&& r'.mask = r'.pattern → r' = r) ∧ (decodeHT ht).mnemonic = r.mnemonic

/-- A[1:0] and the data of a read are ignored, and no transaction stops (R52, R75). -/
def Obligations.LowAddressBitsIgnored : Prop :=
  (∀ (w : Bool) (a b : Addr) (d : Word), a.toNat / 4 = b.toNat / 4 →
    decodeHT (htMake w a d) = decodeHT (htMake w b d)) ∧
  (∀ (a : Addr) (d e : Word), decodeHT (htMake false a d) = decodeHT (htMake false a e)) ∧
  (∀ (ht : HT) (s : State), ∃ t, exec (decodeHT ht) s = .next t)

/-- Operands are taken from the bits R73 lists, for every data word and every address of the operation (R73). -/
def Obligations.OperandsTakenFromTransaction : Prop :=
  ∀ (a : Addr) (d : Word),
    (a.toNat / 4 = 0 → decodeHT (htMake true a d) = .wrCtrl (d.getLsbD 0)) ∧
    (a.toNat / 4 = 1 → decodeHT (htMake true a d) = .wrStatus (d.getLsbD 1) (d.getLsbD 2)) ∧
    (a.toNat / 4 = 2 → decodeHT (htMake true a d) = .wrRowY (d.extractLsb' 0 16)) ∧
    (a.toNat / 4 = 3 → decodeHT (htMake true a d) = .wrOffset (d.extractLsb' 0 16) (d.extractLsb' 16 16)) ∧
    (a.toNat / 4 = 4 → decodeHT (htMake true a d) = .wrWidth (d.extractLsb' 0 16)) ∧
    (a.toNat / 4 = 5 → decodeHT (htMake true a d) =
      .wrMeta (d.extractLsb' 0 8) (d.extractLsb' 8 8) (d.getLsbD 16) (d.extractLsb' 17 3) (d.getLsbD 20)) ∧
    (0x0400 ≤ a.toNat → a.toNat < 0x0800 →
      decodeHT (htMake true a d) = .wrLut (a.extractLsb' 2 8) (d.extractLsb' 0 16) ∧
      decodeHT (htMake false a d) = .rdLut (a.extractLsb' 2 8)) ∧
    (0x1000 ≤ a.toNat → a.toNat < 0x2000 →
      decodeHT (htMake true a d) =
        .wrIdx (a.extractLsb' 2 10) (d.extractLsb' 0 8) (d.extractLsb' 8 8) (d.extractLsb' 16 8) (d.extractLsb' 24 8))

/-- Sink event words: the fields of R74; that TYPE = 1 with a nonzero payload has no operation is the model's choice, log entry 11
(R76 says only that the block never issues such a word and that it is outside the spec). -/
def Obligations.SinkEventWordsDecode : Prop :=
  ∀ se : SE,
    (se.getLsbD 48 = false →
      decode (.sinkEvent se) = .ok (.pixelWrite (se.extractLsb' 32 16) (se.extractLsb' 16 16) (se.extractLsb' 0 16)) ∧
      encode (.pixelWrite (se.extractLsb' 32 16) (se.extractLsb' 16 16) (se.extractLsb' 0 16)) = .sinkEvent se) ∧
    (se.getLsbD 48 = true → se.extractLsb' 0 48 = 0 →
      decode (.sinkEvent se) = .ok .present ∧ encode .present = .sinkEvent se) ∧
    (se.getLsbD 48 = true → se.extractLsb' 0 48 ≠ 0 → ∀ i : Instr, decode (.sinkEvent se) ≠ .ok i)

/-- Each pseudo-operation expands to transactions of the operation it names (R78). POLL of any address is one or more reads of it, each
with data 0; the mask and the value it compares with are the host's own loop and reach no transaction (R77, R78). -/
def Obligations.PseudoOperationsExpand : Prop :=
  decodeHT Script.go = .wrCtrl true ∧ decodeHT Script.clrErr = .wrStatus true true ∧
  (∀ (a : Addr) (n : Nat), (Script.poll a n).length = n + 1 ∧
    ∀ ht ∈ Script.poll a n, ht = htMake false a 0 ∧ decodeHT ht = decodeRead a) ∧
  (∀ n : Nat, (Script.waitIdle n).length = n + 1 ∧ ∀ ht ∈ Script.waitIdle n, decodeHT ht = .rdStatus) ∧
  (∀ (n : Index) (c : Colour), decodeHT (Script.setPal n c) = .wrLut n c) ∧
  (∀ (w : BitVec 10) (b0 b1 b2 b3 : Index), decodeHT (Script.setIdx w b0 b1 b2 b3) = .wrIdx w b0 b1 b2 b3) ∧
  (∀ y : BitVec 16, decodeHT (Script.setY y) = .wrRowY y) ∧
  (∀ x y : Int, decodeHT (Script.setOff x y) = .wrOffset (BitVec.ofInt 16 x) (BitVec.ofInt 16 y)) ∧
  (∀ w : BitVec 16, decodeHT (Script.setW w) = .wrWidth w) ∧
  (∀ (t b : Index) (h : Bool) (d : BitVec 3) (l : Bool), decodeHT (Script.setMeta t b h d l) = .wrMeta t b h d l)

/-! ### The step -/

/-- When the next move's packet decodes to an operation, the step is exec of it, with the move taken and nothing else around it. -/
def Obligations.StepRunsDecodedPacket : Prop :=
  ∀ (s : State) (p : Packet) (rest : List Move) (i : Instr),
    s.inbox = .packet p :: rest → decode p = .ok i → step s = exec i { s with inbox := rest }

/-- The other steps: with nothing to come the engine composites a pending row or the block stays idle; a sink event word outside the
spec is refused by name. Model choice, log entries 2, 3 and 11. -/
def Obligations.StepWithoutTransaction : Prop :=
  (∀ s : State, s.inbox = [] → s.busy = true → step s = exec .row s) ∧
  (∀ s : State, s.inbox = [] → s.busy = false → step s = .next s) ∧
  (∀ s : State, s.busy = false → exec .row s = .next s) ∧
  (∀ (s : State) (se : SE) (rest : List Move), s.inbox = .packet (.sinkEvent se) :: rest → se.getLsbD 48 = true →
    se.extractLsb' 0 48 ≠ 0 → step s = .refused (.undecodable (.presentPayload se)))

/-- A word of the opcode table, placed, is the very next operation; placing the engine's row also makes a row pending. Model choice, log
entries 12 and 16. -/
def Obligations.TableWordRunsNext : Prop :=
  ∀ (s : State) (nbits w : Nat) (i : Instr), decodeTableWord nbits w = some i →
    step (s.withFetchWord nbits w) = exec i { s with busy := s.busy || nbits == 0 }

/-! ### Reads -/

/-- RD_CTRL, RD_IDX and RESERVED_RD, at the keys of their rows, return 0 and change nothing else, whatever the state (R103, R141, R106). -/
def Obligations.ReadsReturningZero : Prop :=
  (∀ ht : HT, htKey ht &&& 0x7FFC = 0x0000 → decodeHT ht = .rdCtrl) ∧
  (∀ ht : HT, htKey ht &&& 0x7000 = 0x1000 → decodeHT ht = .rdIdx ((htAddr ht).extractLsb' 2 10)) ∧
  (∀ (ht : HT) (r : TableRow), r ∈ opcodeTable → r.mnemonic = .RESERVED_RD → htKey ht &&& r.mask = r.pattern →
    decodeHT ht = .reservedRd ((htAddr ht).extractLsb' 2 12)) ∧
  ∀ (s : State) (w : BitVec 10) (a : BitVec 12),
    exec .rdCtrl s = .next { s with responses := s.responses ++ [0] } ∧
    exec (.rdIdx w) s = .next { s with responses := s.responses ++ [0] } ∧
    exec (.reservedRd a) s = .next { s with responses := s.responses ++ [0] }

/-- RD_STATUS returns BUSY, WERR and GOERR at bits 0, 1 and 2, the rest 0, and clears nothing (R104). -/
def Obligations.ReadStatusWord : Prop :=
  (∀ ht : HT, htKey ht &&& 0x7FFC = 0x0004 → decodeHT ht = .rdStatus) ∧
  ∀ s : State, ∃ w : Word, exec .rdStatus s = .next { s with responses := s.responses ++ [w] } ∧
    w.getLsbD 0 = s.busy ∧ w.getLsbD 1 = s.werr ∧ w.getLsbD 2 = s.goerr ∧ ∀ k, 3 ≤ k → w.getLsbD k = false

/-- RD_ROW_Y, RD_OFFSET and RD_WIDTH return what is stored, the width not clamped (R109, R111, R113). -/
def Obligations.ReadRowRegisters : Prop :=
  (∀ ht : HT, htKey ht &&& 0x7FFC = 0x0008 → decodeHT ht = .rdRowY) ∧
  (∀ ht : HT, htKey ht &&& 0x7FFC = 0x000C → decodeHT ht = .rdOffset) ∧
  (∀ ht : HT, htKey ht &&& 0x7FFC = 0x0010 → decodeHT ht = .rdWidth) ∧
  ∀ s : State, ∃ y o w : Word,
    exec .rdRowY s = .next { s with responses := s.responses ++ [y] } ∧ y.toNat = s.rowY.toNat ∧
    exec .rdOffset s = .next { s with responses := s.responses ++ [o] } ∧ o.toNat = s.yOff.toNat * 65536 + s.xOff.toNat ∧
    exec .rdWidth s = .next { s with responses := s.responses ++ [w] } ∧ w.toNat = s.width.toNat

/-- RD_META returns the five fields at R115's shifts, bits 31:21 zero, and after a ROW step the same word (R115). -/
def Obligations.ReadMetaWord : Prop :=
  (∀ ht : HT, htKey ht &&& 0x7FFC = 0x0014 → decodeHT ht = .rdMeta) ∧
  ∀ s : State, ∃ w : Word, exec .rdMeta s = .next { s with responses := s.responses ++ [w] } ∧
    w = (BitVec.ofBool s.lastRow).setWidth 32 <<< 20 ||| s.disposal.setWidth 32 <<< 17 |||
      (BitVec.ofBool s.hasTransp).setWidth 32 <<< 16 ||| s.bgIdx.setWidth 32 <<< 8 ||| s.transpIdx.setWidth 32 ∧
    w.extractLsb' 21 11 = 0 ∧
    ∀ t, exec .row s = .next t → exec .rdMeta t = .next { t with responses := t.responses ++ [w] }

/-- RD_CAPS returns PANEL_H[15:0] above PANEL_W[15:0] (R117). -/
def Obligations.ReadCapsWord : Prop :=
  (∀ ht : HT, htKey ht &&& 0x7FFC = 0x0018 → decodeHT ht = .rdCaps) ∧
  ∀ s : State, ∃ w : Word, exec .rdCaps s = .next { s with responses := s.responses ++ [w] } ∧
    w.toNat = s.panelH % 65536 * 65536 + s.panelW % 65536

/-- RD_LUT returns entry A[9:2], bits 31:16 zero; an entry not written since reset gives some 16-bit value, and the read completes
(R131). -/
def Obligations.ReadLutEntry : Prop :=
  (∀ ht : HT, htKey ht &&& 0x7C00 = 0x0400 → decodeHT ht = .rdLut ((htAddr ht).extractLsb' 2 8)) ∧
  ∀ (s : State) (n : Index), ∃ w : Word,
    exec (.rdLut n) s = .next { s with responses := s.responses ++ [w] } ∧ w.toNat < 65536 ∧
    ∀ c, s.lutAt n = some c → w.toNat = c.toNat

/-! ### Writes -/

/-- WR_CTRL: no effect with D[0] = 0; a GO sets BUSY, or GOERR during the BUSY window, whatever else the state holds (R102). -/
def Obligations.WriteCtrlStartsRow : Prop :=
  (∀ ht : HT, htKey ht &&& 0x7FFC = 0x4000 → decodeHT ht = .wrCtrl ((htData ht).getLsbD 0)) ∧
  ∀ s : State,
    exec (.wrCtrl false) s = .next s ∧
    (s.busy = false → exec (.wrCtrl true) s = .next { s with busy := true }) ∧
    (s.busy = true → exec (.wrCtrl true) s = .next { s with goerr := true })

/-- WR_STATUS clears exactly the error flags asked for, BUSY or not (R105). -/
def Obligations.WriteStatusClears : Prop :=
  (∀ ht : HT, htKey ht &&& 0x7FFC = 0x4004 → decodeHT ht = .wrStatus ((htData ht).getLsbD 1) ((htData ht).getLsbD 2)) ∧
  ∀ (s : State) (cw cg : Bool), exec (.wrStatus cw cg) s =
    .next { s with werr := if cw = true then false else s.werr, goerr := if cg = true then false else s.goerr }

/-- RESERVED_WR and WR_CAPS, at the keys of their rows, change nothing and set no flag, BUSY or not (R107, R118). -/
def Obligations.IgnoredWrites : Prop :=
  (∀ (ht : HT) (r : TableRow), r ∈ opcodeTable → r.mnemonic = .RESERVED_WR → htKey ht &&& r.mask = r.pattern →
    decodeHT ht = .reservedWr ((htAddr ht).extractLsb' 2 12)) ∧
  (∀ ht : HT, htKey ht &&& 0x7FFC = 0x4018 → decodeHT ht = .wrCaps) ∧
  ∀ (s : State) (a : BitVec 12), exec (.reservedWr a) s = .next s ∧ exec .wrCaps s = .next s

/-- The row registers take the written fields while BUSY = 0; during the BUSY window the write is discarded with WERR (R110, R112, R114,
R116). -/
def Obligations.WriteRowRegisters : Prop :=
  (∀ ht : HT,
    (htKey ht &&& 0x7FFC = 0x4008 → decodeHT ht = .wrRowY ((htData ht).extractLsb' 0 16)) ∧
    (htKey ht &&& 0x7FFC = 0x400C → decodeHT ht = .wrOffset ((htData ht).extractLsb' 0 16) ((htData ht).extractLsb' 16 16)) ∧
    (htKey ht &&& 0x7FFC = 0x4010 → decodeHT ht = .wrWidth ((htData ht).extractLsb' 0 16)) ∧
    (htKey ht &&& 0x7FFC = 0x4014 → decodeHT ht = .wrMeta ((htData ht).extractLsb' 0 8) ((htData ht).extractLsb' 8 8)
      ((htData ht).getLsbD 16) ((htData ht).extractLsb' 17 3) ((htData ht).getLsbD 20))) ∧
  ∀ (s : State) (y x v w : BitVec 16) (t b : Index) (h : Bool) (d : BitVec 3) (l : Bool),
    (s.busy = false →
      exec (.wrRowY y) s = .next { s with rowY := y } ∧
      exec (.wrOffset x v) s = .next { s with xOff := x, yOff := v } ∧
      exec (.wrWidth w) s = .next { s with width := w } ∧
      exec (.wrMeta t b h d l) s =
        .next { s with transpIdx := t, bgIdx := b, hasTransp := h, disposal := d, lastRow := l }) ∧
    (s.busy = true →
      exec (.wrRowY y) s = .next { s with werr := true } ∧
      exec (.wrOffset x v) s = .next { s with werr := true } ∧
      exec (.wrWidth w) s = .next { s with werr := true } ∧
      exec (.wrMeta t b h d l) s = .next { s with werr := true })

/-- Every row-resource write during the BUSY window sets WERR and changes nothing else; while BUSY = 0 it completes and changes nothing
but row resources (R108). -/
def Obligations.RowWriteGuard : Prop :=
  ∀ (i : Instr) (s : State), i.isRowWrite = true →
    (s.busy = true → exec i s = .next { s with werr := true }) ∧
    (s.busy = false → ∃ t, exec i s = .next t ∧ t = { s with
      rowY := t.rowY, xOff := t.xOff, yOff := t.yOff, width := t.width, transpIdx := t.transpIdx, bgIdx := t.bgIdx,
      hasTransp := t.hasTransp, disposal := t.disposal, lastRow := t.lastRow, lut := t.lut, idx := t.idx })

/-- WR_LUT writes entry n = A[9:2] and its written bit, and no other entry and no other state (R130). -/
def Obligations.WriteLutEntry : Prop :=
  (∀ ht : HT, htKey ht &&& 0x7C00 = 0x4400 →
    decodeHT ht = .wrLut ((htAddr ht).extractLsb' 2 8) ((htData ht).extractLsb' 0 16)) ∧
  ∀ (s : State) (n : Index) (c : Colour),
    (s.busy = false → ∃ t, exec (.wrLut n c) s = .next t ∧ t.lutAt n = some c ∧ t.lutWr n = true ∧
      (∀ m, m ≠ n → t.lutAt m = s.lutAt m) ∧ t = { s with lut := t.lut }) ∧
    (s.busy = true → exec (.wrLut n c) s = .next { s with werr := true })

/-- WR_IDX of word w = A[11:2] stores lane k in column 4w + k below PANEL_W, the lowest column from the least significant byte, with its
written bit; every other column and all other state is unchanged; an unbacked word changes nothing (R140, R50). -/
def Obligations.WriteIdxLanes : Prop :=
  (∀ ht : HT, htKey ht &&& 0x7000 = 0x5000 → decodeHT ht = .wrIdx ((htAddr ht).extractLsb' 2 10)
    ((htData ht).extractLsb' 0 8) ((htData ht).extractLsb' 8 8) ((htData ht).extractLsb' 16 8) ((htData ht).extractLsb' 24 8)) ∧
  ∀ (s : State) (w : BitVec 10) (d : Word) (i : Instr),
    i = .wrIdx w (d.extractLsb' 0 8) (d.extractLsb' 8 8) (d.extractLsb' 16 8) (d.extractLsb' 24 8) →
    (s.busy = false → ∃ t, exec i s = .next t ∧ t = { s with idx := t.idx } ∧
      (∀ k, k < 4 → 4 * w.toNat + k < s.panelW →
        t.idxAt (4 * w.toNat + k) = some (d.extractLsb' (8 * k) 8) ∧ t.idxWr (4 * w.toNat + k) = true) ∧
      (∀ col, col / 4 ≠ w.toNat ∨ s.panelW ≤ col → t.idxAt col = s.idxAt col) ∧
      ((s.panelW + 3) / 4 ≤ w.toNat → t = s)) ∧
    (s.busy = true → exec i s = .next { s with werr := true })

/-- R54 whole: reads have no side effect and repeat; row-resource writes while BUSY = 0 and STATUS writes are idempotent; a repeated GO
sets GOERR; a row-resource write during the BUSY window sets WERR. -/
def Obligations.HostAccessSideEffects : Prop :=
  (∀ (i : Instr) (s : State), i.isRead = true → ∃ w : Word,
    exec i s = .next { s with responses := s.responses ++ [w] } ∧
    exec i { s with responses := s.responses ++ [w] } = .next { s with responses := s.responses ++ [w, w] }) ∧
  (∀ (i : Instr) (s : State), i.isRowWrite = true → s.busy = false → ∃ t, exec i s = .next t ∧ exec i t = .next t) ∧
  (∀ (cw cg : Bool) (s : State), ∃ t, exec (.wrStatus cw cg) s = .next t ∧ exec (.wrStatus cw cg) t = .next t) ∧
  (∀ s : State, s.busy = false → ∃ t, exec (.wrCtrl true) s = .next t ∧ t.busy = true ∧ t.goerr = s.goerr ∧
    exec (.wrCtrl true) t = .next { t with goerr := true }) ∧
  (∀ (i : Instr) (s : State), i.isRowWrite = true → s.busy = true → ∃ t, exec i s = .next t ∧ t.werr = true)

/-- A read returns the same word whether BUSY is 0 or 1, but for the BUSY bit that RD_STATUS itself reports (R119). -/
def Obligations.ReadsSameDuringBusy : Prop :=
  ∀ (i : Instr) (s : State), i.isRead = true → ∃ w : Word, ∀ b : Bool, ∃ v : Word,
    exec i { s with busy := b } = .next { s with busy := b, responses := s.responses ++ [v] } ∧
    v.extractLsb' 1 31 = w.extractLsb' 1 31 ∧ (i ≠ .rdStatus → v = w) ∧ (i = .rdStatus → v.getLsbD 0 = b)

/-- A register or LUT entry reads back what was last written to it, in its defined bits (R229). -/
def Obligations.RegistersReadBack : Prop :=
  (∀ (s : State) (a b : Addr) (d : Word), s.busy = false →
    ∀ m ∈ [(2, 0x0000FFFF#32), (3, 0xFFFFFFFF#32), (4, 0x0000FFFF#32), (5, 0x001FFFFF#32)],
      a.toNat / 4 = m.1 → b.toNat / 4 = m.1 →
      ∃ t u, exec (decodeHT (htMake true a d)) s = .next t ∧ exec (decodeHT (htMake false b 0)) t = .next u ∧
        u.responses = s.responses ++ [d &&& m.2]) ∧
  (∀ (s : State) (a b : Addr) (d : Word), s.busy = false → 0x0400 ≤ a.toNat → a.toNat < 0x0800 → b.toNat / 4 = a.toNat / 4 →
    ∃ t u, exec (decodeHT (htMake true a d)) s = .next t ∧ exec (decodeHT (htMake false b 0)) t = .next u ∧
      u.responses = s.responses ++ [d &&& 0x0000FFFF#32])

/-! ### ROW -/

/-- ROW with a row pending and every entry it reads written completes: exactly the loop's PIXEL_WRITEs, then PRESENT if LAST_ROW, BUSY
cleared, nothing else changed, whatever the row registers hold; an entry it reads that is not written faults the step, no key selects
ROW, and a row none of whose indices is TRANSP_IDX is all opaque (R150, R163). -/
def Obligations.RowIssuesItsPixels : Prop :=
  (∀ s : State, s.busy = true → s.rowReady = true →
    exec .row s = .next { s with
      busy := false
      events := s.events ++ s.loopPixels ++ (if s.lastRow = true then [SinkEvent.present] else []) }) ∧
  (∀ s : State, s.busy = true → s.rowReady = false → ∃ f, exec .row s = .fault f) ∧
  (∀ ht : HT, decodeHT ht ≠ .row) ∧
  (∀ s : State, (∀ i < s.wEff, s.idxAt i ≠ some s.transpIdx) → ∀ i < s.wEff, s.isTransparent i = false)

/-- ROW with a row pending faults exactly when an entry it reads has not been written: it reads columns in increasing order whatever
their class, and looks up a LUT entry only for a pixel it writes (R156). -/
def Obligations.RowFaultsOnFirstUnwritten : Prop :=
  ∀ s : State, s.busy = true →
    (s.rowReady = false → ∃ i, i < s.wEff ∧ (∀ j < i, s.columnReady j = true) ∧
      ((s.idxWr i = false ∧ exec .row s = .fault (.unwrittenIDX i)) ∨
       ∃ n m, s.idxAt i = some n ∧ s.classify i n = .written m ∧ s.lutWr m = false ∧ exec .row s = .fault (.unwrittenLUT m))) ∧
    (∀ t, exec .row s = .next t → ∀ i < s.wEff, ∃ n, s.idxAt i = some n ∧ ∀ m, s.classify i n = .written m → s.lutWr m = true) ∧
    ((∀ i < s.wEff, ∃ n, s.idxAt i = some n ∧ ∀ m, s.classify i n = .written m → s.lutWr m = true) →
      ∃ t, exec .row s = .next t)

/-- The three classes of a column, by the conditions of R158, and what a column of each class issues (R158, R157). -/
def Obligations.ColumnClasses : Prop :=
  ∀ (s : State) (i : Nat) (n : Index), s.idxAt i = some n →
    ((s.skipEnabled = true ∧ s.effectiveIndex n = s.transpIdx) → s.columnEvents i = .ok []) ∧
    (¬ (s.skipEnabled = true ∧ s.effectiveIndex n = s.transpIdx) →
      ¬ (0 ≤ s.sinkX i ∧ s.sinkX i < s.panelW ∧ 0 ≤ s.sinkY ∧ s.sinkY < s.panelH) → s.columnEvents i = .ok []) ∧
    (¬ (s.skipEnabled = true ∧ s.effectiveIndex n = s.transpIdx) →
      (0 ≤ s.sinkX i ∧ s.sinkX i < s.panelW ∧ 0 ≤ s.sinkY ∧ s.sinkY < s.panelH) →
      ∀ c, s.lutAt (s.effectiveIndex n) = some c →
        s.columnEvents i = .ok [.pixelWrite (BitVec.ofInt 16 (s.sinkX i)) (BitVec.ofInt 16 s.sinkY) c])

/-- The width clamp, the restore test, the rewrite, the transparency enable and the coordinates of a row (R151 to R155). -/
def Obligations.RowOperandRules : Prop :=
  ∀ (s : State) (n : Index) (i : Nat),
    s.wEff = (if s.width.toNat ≤ s.panelW then s.width.toNat else s.panelW) ∧
    (s.restore = true ↔ s.disposal = 2) ∧
    (s.disposal = 2 → s.effectiveIndex n = if n = s.transpIdx then s.bgIdx else n) ∧
    (s.disposal ≠ 2 → s.effectiveIndex n = n) ∧
    (s.skipEnabled = true ↔ s.hasTransp = true ∧ s.disposal ≠ 2) ∧
    (∃ q : Int, s.sinkX i = s.xOff.toNat - 65536 * q + i ∧ q = if s.xOff.getLsbD 15 = true then 1 else 0) ∧
    (∃ q : Int, s.sinkY = s.yOff.toNat - 65536 * q + s.rowY.toNat ∧ q = if s.yOff.getLsbD 15 = true then 1 else 0)

/-- A ROW step is a function of the row resources: two states that share the registers, the panel, the columns below W_eff and the LUT
issue the same events and are left sharing them, or fault alike (R162, R151). -/
def Obligations.RowDependsOnlyOnResources : Prop :=
  ∀ s t : State, s.SameRow t → s.busy = true → t.busy = true →
    (∀ s', exec .row s = .next s' → ∃ es t', s'.events = s.events ++ es ∧ exec .row t = .next t' ∧ t'.events = t.events ++ es ∧
      s'.SameRow t' ∧ s'.busy = t'.busy) ∧
    (∀ f, exec .row s = .fault f → exec .row t = .fault f)

/-- The write counts of a completed row, R161's four items. -/
def Obligations.RowWriteCounts : Prop :=
  ∀ s t : State, s.busy = true → exec .row s = .next t → ∃ es, t.events = s.events ++ es ∧
    (s.skipEnabled = false → (∀ i < s.wEff, s.isDropped i = false) →
      (es.filter SinkEvent.isPixel).length = s.wEff ∧
      (es.filter SinkEvent.isPixel).map SinkEvent.colour = (List.range s.wEff).map s.resolve) ∧
    (s.skipEnabled = true → (∀ i < s.wEff, s.isTransparent i = true) → es.filter SinkEvent.isPixel = []) ∧
    (s.wEff = 0 → es.filter SinkEvent.isPixel = []) ∧
    (es.filter SinkEvent.isPixel).length + ((List.range s.wEff).filter s.isTransparent).length +
      ((List.range s.wEff).filter s.isDropped).length = s.wEff

/-- A completed row with LAST_ROW = 1 issues exactly one PRESENT, after all its PIXEL_WRITEs, even when it writes none; with LAST_ROW = 0
none (R159). -/
def Obligations.RowPresentLast : Prop :=
  ∀ s t : State, s.busy = true → exec .row s = .next t → ∃ px : List SinkEvent, (∀ e ∈ px, e.isPixel = true) ∧
    (s.lastRow = true → t.events = s.events ++ px ++ [.present]) ∧
    (s.lastRow = false → t.events = s.events ++ px)

/-- Within a completed row, PIXEL_WRITEs go strictly left to right at the sink (R55 item 1), in every state whose panel is within its
bounds. -/
def Obligations.RowLeftToRight : Prop :=
  ∀ s t : State, s.panelW ≤ 4096 → s.busy = true → exec .row s = .next t → ∃ es, t.events = s.events ++ es ∧
    (es.filterMap SinkEvent.column).Pairwise (· < ·)

/-- R160: the runs of a row partition its columns, opaque and transparent by turns, and resolving and flushing every opaque run issues
exactly the events of the per-column loop. -/
def Obligations.RunProcedureMatchesColumnLoop : Prop :=
  (∀ s : State,
    (s.runs.flatMap (fun r => r.1 ++ r.2)) = List.range s.wEff ∧
    (s.runs.map (fun r => r.1.length + r.2.length)).sum = s.wEff ∧
    (∀ r ∈ s.runs, (∀ i ∈ r.1, s.isTransparent i = false) ∧ (∀ i ∈ r.2, s.isTransparent i = true)) ∧
    (∀ pre a b post, s.runs = pre ++ a :: b :: post → a.2 ≠ [] ∧ b.1 ≠ [])) ∧
  (∀ s t : State, s.busy = true → exec .row s = .next t →
    t.events = s.events ++ s.runProcedure ++ (if s.lastRow = true then [SinkEvent.present] else []))

/-- Whatever operation executes, the events it adds are on the panel (R64), in every state whose panel is within its bounds. That the
sink event PIXEL_WRITE taken alone drops a position off the panel is the model's choice, log entry 10. -/
def Obligations.EventsStayOnPanel : Prop :=
  ∀ (i : Instr) (s t : State), s.panelW ≤ 4096 → s.panelH ≤ 4096 → exec i s = .next t →
    ∃ es, t.events = s.events ++ es ∧ ∀ e ∈ es, e.inPanel s.panelW s.panelH = true

/-! ### The whole machine -/

/-- Only the engine's step issues events, and only with a row pending: no transaction and no reset does (R170, R171). -/
def Obligations.EventsOnlyFromRow : Prop :=
  ∀ s t : State, (∀ m ∈ s.inbox.head?, m.isSpec = true) → step s = .next t → t.events ≠ s.events →
    s.busy = true ∧ t.busy = false ∧ (s.inbox = [] ∨ s.inbox.head? = some (.packet .engineStep))

/-- WERR and GOERR stay set until the host clears them by WR_STATUS or a reset occurs (R24). -/
def Obligations.StickyErrorFlags : Prop :=
  ∀ s t : State, step s = .next t →
    (s.werr = true → t.werr = false →
      s.inbox.head? = some .reset ∨
      ∃ ht cg, s.inbox.head? = some (.packet (.transaction ht)) ∧ decodeHT ht = .wrStatus true cg) ∧
    (s.goerr = true → t.goerr = false →
      s.inbox.head? = some .reset ∨
      ∃ ht cw, s.inbox.head? = some (.packet (.transaction ht)) ∧ decodeHT ht = .wrStatus cw true)

/-- BUSY is set only by an accepted GO and cleared only by the engine's step or a reset (R24, R35). -/
def Obligations.BusyWindowBounds : Prop :=
  ∀ s t : State, step s = .next t →
    (s.busy = false → t.busy = true →
      ∃ ht, s.inbox.head? = some (.packet (.transaction ht)) ∧ decodeHT ht = .wrCtrl true) ∧
    (s.busy = true → t.busy = false →
      s.inbox = [] ∨ s.inbox.head? = some (.packet .engineStep) ∨ s.inbox.head? = some .reset)

/-- A transaction sets at most one error flag, WERR only by a row-resource write and GOERR only by a GO; ROW sets none (R204, R201). -/
def Obligations.OneFlagPerTransaction : Prop :=
  ∀ (i : Instr) (s t : State), exec i s = .next t →
    (t.werr = true → s.werr = false → i.isRowWrite = true ∧ s.busy = true ∧ t.goerr = s.goerr ∧ t.busy = true) ∧
    (t.goerr = true → s.goerr = false → i = .wrCtrl true ∧ s.busy = true ∧ t.werr = s.werr ∧ t.busy = true)

/-- However many transactions come during the BUSY window, the row stays pending, the row resources stay as they were when GO was
accepted, and the ROW step then issues the events of that state (R62). -/
def Obligations.PendingRowSeesStateAtGo : Prop :=
  ∀ (hts : List HT) (s : State), s.busy = true →
    ∃ t, s.afterHost hts = .next t ∧ t.busy = true ∧ s.SameResources t ∧
      t.events = s.events ∧ (∀ f, exec .row s = .fault f ↔ exec .row t = .fault f) ∧
      (s.rowReady = true → exec .row t = .next { t with
        busy := false, events := s.events ++ s.loopPixels ++ (if s.lastRow = true then [SinkEvent.present] else []) })

/-- A pending row is composited: after any finite number of transactions, the engine's step issues its events and BUSY reads 0 (R233,
R228). That the engine steps when no other move is left is the model's choice, log entry 2. -/
def Obligations.PendingRowIsComposited : Prop :=
  ∀ (hts : List HT) (s : State), s.busy = true → s.rowReady = true →
    s.inbox = hts.map (fun ht => Move.packet (.transaction ht)) →
    ∃ t, Host.Core.run Sys2Proof.core (hts.length + 1) s = .next t ∧ t.busy = false ∧ t.inbox = [] ∧
      t.events = s.events ++ s.loopPixels ++ (if s.lastRow = true then [SinkEvent.present] else [])

/-- Every step keeps the invariant: canonical memories inside their address spaces, a legal panel, events on the panel. -/
def Obligations.EveryStepKeepsInvariant : Prop :=
  ∀ s t : State, s.Inv → step s = .next t → t.Inv

/-- The invariant holds at reset. -/
def Obligations.InvariantHoldsAtReset : Prop := State.reset.Inv

/-- CAPS is a constant of the instance: no step changes the panel (R30). -/
def Obligations.PanelNeverChanges : Prop :=
  ∀ s t : State, step s = .next t → t.panelW = s.panelW ∧ t.panelH = s.panelH

/-- The reset values of R39. -/
def Obligations.ResetValues : Prop :=
  State.reset.busy = false ∧ State.reset.werr = false ∧ State.reset.goerr = false ∧
  State.reset.rowY = 0 ∧ State.reset.xOff = 0 ∧ State.reset.yOff = 0 ∧ State.reset.width = 0 ∧
  State.reset.transpIdx = 0 ∧ State.reset.bgIdx = 0 ∧ State.reset.hasTransp = false ∧ State.reset.disposal = 0 ∧
  State.reset.lastRow = false ∧ (∀ n, State.reset.lutWr n = false) ∧ (∀ i, State.reset.idxWr i = false) ∧
  State.reset.events = [] ∧
  (∀ i ∈ [Instr.rdCtrl, .rdStatus, .rdRowY, .rdOffset, .rdWidth, .rdMeta],
    exec i State.reset = .next { State.reset with responses := [0] }) ∧
  exec .rdCaps State.reset = .next { State.reset with responses := [BitVec.ofNat 32 (65536 * Config.panelH + Config.panelW)] }

/-- A reset from any state: every register 0, no entry written, a pending row discarded with none of its events issued, CAPS and the
events already issued kept (R220, R221). The moves left to come are kept too: model choice, log entry 20. -/
def Obligations.ResetFromAnyState : Prop :=
  ∀ (s : State) (rest : List Move), s.inbox = .reset :: rest → ∃ t, step s = .next t ∧
    t.busy = false ∧ t.werr = false ∧ t.goerr = false ∧ t.rowY = 0 ∧ t.xOff = 0 ∧ t.yOff = 0 ∧ t.width = 0 ∧
    t.transpIdx = 0 ∧ t.bgIdx = 0 ∧ t.hasTransp = false ∧ t.disposal = 0 ∧ t.lastRow = false ∧
    (∀ n, t.lutWr n = false) ∧ (∀ i, t.idxWr i = false) ∧
    t.panelW = s.panelW ∧ t.panelH = s.panelH ∧ t.events = s.events ∧ t.inbox = rest

/-- A GO right after reset, with nothing written, is harmless: the row reads nothing, issues nothing and completes (R222). -/
def Obligations.FirstGoHarmless : Prop :=
  Host.Core.run Sys2Proof.core 2 { State.reset with inbox := [.packet (.transaction Script.go), .packet .engineStep] } =
    .next State.reset

/-- The two sink events taken alone append their event; a position off the panel appends none. Model choice, log entries 9 and 10. -/
def Obligations.SinkEventsAppend : Prop :=
  ∀ (s : State) (x y : Coord) (c : Colour),
    (x.toNat < s.panelW ∧ y.toNat < s.panelH →
      exec (.pixelWrite x y c) s = .next { s with events := s.events ++ [.pixelWrite x y c] }) ∧
    (¬ (x.toNat < s.panelW ∧ y.toNat < s.panelH) → exec (.pixelWrite x y c) s = .next s) ∧
    exec .present s = .next { s with events := s.events ++ [.present] }

/-- No operation is refused, and only ROW faults, with a row pending and an entry it reads not written (R200, R202). -/
def Obligations.OnlyRowFaults : Prop :=
  ∀ (i : Instr) (s : State),
    (∀ r, exec i s ≠ .refused r) ∧
    (∀ f, exec i s = .fault f → i = .row ∧ s.busy = true ∧ s.rowReady = false)
end

