-- ==== Sys2Proof/Laws/Decode.lean ====
section
/-! SUPPORT. The laws of the transaction fields and of the address map, from which the decoder's statements follow. -/

namespace Sys2Proof

/-! ### The fields of a transaction -/

@[simp] theorem htWrite_htMake (w : Bool) (a : Addr) (d : Word) : htWrite (htMake w a d) = w := by
  cases w <;> simp [htWrite, htMake]

@[simp] theorem htAddr_htMake (w : Bool) (a : Addr) (d : Word) : htAddr (htMake w a d) = a := by
  ext i hi
  simp [htAddr, htMake]
  grind

@[simp] theorem htData_htMake (w : Bool) (a : Addr) (d : Word) : htData (htMake w a d) = d := by
  ext i hi
  simp [htData, htMake]
  grind

/-- A transaction is its three fields. -/
theorem htMake_fields (ht : HT) : htMake (htWrite ht) (htAddr ht) (htData ht) = ht := by
  ext i hi
  simp [htMake, htWrite, htAddr, htData]
  grind

/-- The key of a transaction in numbers: W above the address. -/
theorem htKey_toNat (ht : HT) : (htKey ht).toNat = (htWrite ht).toNat * 2 ^ 14 + (htAddr ht).toNat := by
  have hw : (htWrite ht).toNat = ht.toNat / 2 ^ 46 % 2 := by
    simp [htWrite, BitVec.getLsbD, Nat.testBit, Nat.shiftRight_eq_div_pow]
    rcases Nat.mod_two_eq_zero_or_one (ht.toNat / 70368744177664) with h | h <;> simp [h]
  rw [hw]
  simp only [htKey, htAddr, BitVec.extractLsb'_toNat, Nat.shiftRight_eq_div_pow]
  omega

/-! ### The address map in numbers (R58) -/

/-- R58's map over the byte address as a number. -/
theorem addressMap_eq (a : Addr) :
    addressMap a =
      if a.toNat / 4 = 0 then .ctrl
      else if a.toNat / 4 = 1 then .status
      else if a.toNat / 4 = 2 then .rowY
      else if a.toNat / 4 = 3 then .offset
      else if a.toNat / 4 = 4 then .width
      else if a.toNat / 4 = 5 then .metaWord
      else if a.toNat / 4 = 6 then .caps
      else if 0x0400 ≤ a.toNat ∧ a.toNat < 0x0800 then .lut (a.extractLsb' 2 8)
      else if 0x1000 ≤ a.toNat ∧ a.toNat < 0x2000 then .idx (a.extractLsb' 2 10)
      else .unmapped (a.extractLsb' 2 12) := by
  have ha := a.isLt
  have word : ∀ k : BitVec 12, a.extractLsb' 2 12 = k ↔ a.toNat / 4 = k.toNat := by
    intro k
    rw [← BitVec.toNat_inj, BitVec.extractLsb'_toNat, Nat.shiftRight_eq_div_pow]
    have : a.toNat / 2 ^ 2 % 2 ^ 12 = a.toNat / 4 := by omega
    rw [this]
  have lut : a.extractLsb' 10 4 = 1 ↔ 0x0400 ≤ a.toNat ∧ a.toNat < 0x0800 := by
    rw [← BitVec.toNat_inj, BitVec.extractLsb'_toNat, Nat.shiftRight_eq_div_pow]
    show a.toNat / 2 ^ 10 % 2 ^ 4 = 1 ↔ _
    omega
  have idx : a.extractLsb' 12 2 = 1 ↔ 0x1000 ≤ a.toNat ∧ a.toNat < 0x2000 := by
    rw [← BitVec.toNat_inj, BitVec.extractLsb'_toNat, Nat.shiftRight_eq_div_pow]
    show a.toNat / 2 ^ 12 % 2 ^ 2 = 1 ↔ _
    omega
  simp only [addressMap, word, lut, idx]
  rfl

/-- What an unmapped place says of its address: its word is one that R58 leaves unmapped. -/
theorem addressMap_unmapped {a : Addr} {w : BitVec 12} (h : addressMap a = .unmapped w) :
    w = a.extractLsb' 2 12 ∧ unmappedWord w = true := by
  rw [addressMap_eq] at h
  repeat' split at h
  all_goals try cases h
  have ha := a.isLt
  refine ⟨rfl, ?_⟩
  simp only [unmappedWord, Bool.or_eq_true, decide_eq_true_eq, BitVec.extractLsb'_toNat, Nat.shiftRight_eq_div_pow]
  omega

/-! ### The address map, place by place -/

theorem addressMap_ctrl {a : Addr} (h : a.toNat / 4 = 0) : addressMap a = .ctrl := by simp [addressMap_eq, h]
theorem addressMap_status {a : Addr} (h : a.toNat / 4 = 1) : addressMap a = .status := by simp [addressMap_eq, h]
theorem addressMap_rowY {a : Addr} (h : a.toNat / 4 = 2) : addressMap a = .rowY := by simp [addressMap_eq, h]
theorem addressMap_offset {a : Addr} (h : a.toNat / 4 = 3) : addressMap a = .offset := by simp [addressMap_eq, h]
theorem addressMap_width {a : Addr} (h : a.toNat / 4 = 4) : addressMap a = .width := by simp [addressMap_eq, h]
theorem addressMap_metaWord {a : Addr} (h : a.toNat / 4 = 5) : addressMap a = .metaWord := by simp [addressMap_eq, h]
theorem addressMap_caps {a : Addr} (h : a.toNat / 4 = 6) : addressMap a = .caps := by simp [addressMap_eq, h]

theorem addressMap_lut {a : Addr} (h : a.toNat / 1024 = 1) : addressMap a = .lut (a.extractLsb' 2 8) := by
  rw [addressMap_eq]
  repeat' split
  all_goals first | rfl | omega

theorem addressMap_idx {a : Addr} (h : a.toNat / 4096 = 1) : addressMap a = .idx (a.extractLsb' 2 10) := by
  rw [addressMap_eq]
  repeat' split
  all_goals first | rfl | omega

theorem addressMap_reserved {a : Addr}
    (h : (28 ≤ a.toNat ∧ a.toNat < 1024) ∨ (2048 ≤ a.toNat ∧ a.toNat < 4096) ∨ 8192 ≤ a.toNat) :
    addressMap a = .unmapped (a.extractLsb' 2 12) := by
  rw [addressMap_eq]
  repeat' split
  all_goals first | rfl | omega

/-- Two addresses of one word select one place (R52). -/
theorem addressMap_congr {a b : Addr} (h : a.toNat / 4 = b.toNat / 4) : addressMap a = addressMap b := by
  have field : ∀ n, n ≤ 12 → a.extractLsb' 2 n = b.extractLsb' 2 n := by
    intro n _
    apply BitVec.eq_of_toNat_eq
    simp only [BitVec.extractLsb'_toNat, Nat.shiftRight_eq_div_pow]
    rw [show 2 ^ 2 = 4 from rfl, h]
  have lut : (0x0400 ≤ a.toNat ∧ a.toNat < 0x0800) ↔ (0x0400 ≤ b.toNat ∧ b.toNat < 0x0800) := by omega
  have idx : (0x1000 ≤ a.toNat ∧ a.toNat < 0x2000) ↔ (0x1000 ≤ b.toNat ∧ b.toNat < 0x2000) := by omega
  simp only [addressMap_eq, field 8 (by omega), field 10 (by omega), field 12 (by omega), lut, idx, h]

/-! ### The encoder's addresses -/

theorem wordAddr_toNat (w : BitVec 12) : (wordAddr w).toNat = 4 * w.toNat := by
  have hw := w.isLt
  simp only [wordAddr, BitVec.toNat_shiftLeft, BitVec.toNat_setWidth, Nat.shiftLeft_eq]
  omega

@[simp] theorem wordAddr_word (w : BitVec 12) : (wordAddr w).extractLsb' 2 12 = w := by
  apply BitVec.eq_of_toNat_eq
  rw [BitVec.extractLsb'_toNat, wordAddr_toNat, Nat.shiftRight_eq_div_pow]
  have := w.isLt
  omega

theorem lutWord_toNat (n : Index) : (lutWord n).toNat = 0x100 + n.toNat := by
  have hn := n.isLt
  have h : (lutWord n).toNat = 2 ^ 8 * 1 ||| n.toNat := by
    simp [lutWord, BitVec.toNat_or, BitVec.toNat_setWidth, Nat.mod_eq_of_lt (show n.toNat < 4096 by omega)]
  rw [h, ← Nat.two_pow_add_eq_or_of_lt hn]

theorem idxWord_toNat (w : BitVec 10) : (idxWord w).toNat = 0x400 + w.toNat := by
  have hw := w.isLt
  have h : (idxWord w).toNat = 2 ^ 10 * 1 ||| w.toNat := by
    simp [idxWord, BitVec.toNat_or, BitVec.toNat_setWidth, Nat.mod_eq_of_lt (show w.toNat < 4096 by omega)]
  rw [h, ← Nat.two_pow_add_eq_or_of_lt hw]

@[simp] theorem addressMap_lutWord (n : Index) : addressMap (wordAddr (lutWord n)) = .lut n := by
  have hn := n.isLt
  have h : (wordAddr (lutWord n)).extractLsb' 2 8 = n := by
    apply BitVec.eq_of_toNat_eq
    rw [BitVec.extractLsb'_toNat, wordAddr_toNat, lutWord_toNat, Nat.shiftRight_eq_div_pow]
    omega
  rw [addressMap_eq, wordAddr_toNat, lutWord_toNat, h]
  repeat' split
  all_goals first | rfl | omega

@[simp] theorem addressMap_idxWord (w : BitVec 10) : addressMap (wordAddr (idxWord w)) = .idx w := by
  have hw := w.isLt
  have h : (wordAddr (idxWord w)).extractLsb' 2 10 = w := by
    apply BitVec.eq_of_toNat_eq
    rw [BitVec.extractLsb'_toNat, wordAddr_toNat, idxWord_toNat, Nat.shiftRight_eq_div_pow]
    omega
  rw [addressMap_eq, wordAddr_toNat, idxWord_toNat, h]
  repeat' split
  all_goals first | rfl | omega

theorem addressMap_unmappedWord {a : BitVec 12} (h : unmappedWord a = true) :
    addressMap (wordAddr a) = .unmapped a := by
  simp only [unmappedWord, Bool.or_eq_true, decide_eq_true_eq] at h
  rw [addressMap_eq, wordAddr_toNat, wordAddr_word]
  repeat' split
  all_goals first | rfl | omega

/-! ### The opcode map's masks: each one keeps the bits from some position up (R72) -/

theorem and_allOnes_shiftLeft {n : Nat} (k : BitVec n) (s : Nat) : k &&& (BitVec.allOnes n <<< s) = (k >>> s) <<< s := by
  ext i hi
  simp
  grind

/-- A key selects a row whose mask keeps the bits from `s` up exactly when the two agree from `s` up. -/
theorem and_mask_eq_iff (k m : Key) (s : Nat) (hm : m.toNat % 2 ^ s = 0) :
    k &&& (BitVec.allOnes 15 <<< s) = m ↔ k.toNat / 2 ^ s = m.toNat / 2 ^ s := by
  have h := and_allOnes_shiftLeft k s
  have hk := k.isLt
  have hle : k.toNat / 2 ^ s * 2 ^ s ≤ k.toNat := Nat.div_mul_le_self _ _
  rw [h, ← BitVec.toNat_inj, BitVec.toNat_shiftLeft, BitVec.toNat_ushiftRight, Nat.shiftRight_eq_div_pow, Nat.shiftLeft_eq,
    Nat.mod_eq_of_lt (by omega)]
  have hpos : 0 < 2 ^ s := Nat.two_pow_pos s
  constructor
  · intro e
    rw [← e, Nat.mul_div_cancel _ hpos]
  · intro e
    rw [e]
    exact Nat.div_mul_cancel (Nat.dvd_of_mod_eq_zero hm)

/-- What a masked key says of the transaction's two fields. -/
theorem htKey_and_eq_iff (ht : HT) {p M : Key} (s : Nat) (hM : M = BitVec.allOnes 15 <<< s) (hm : p.toNat % 2 ^ s = 0) :
    htKey ht &&& M = p ↔ ((htWrite ht).toNat * 2 ^ 14 + (htAddr ht).toNat) / 2 ^ s = p.toNat / 2 ^ s := by
  rw [hM, and_mask_eq_iff _ _ s hm, htKey_toNat]

end Sys2Proof
end

