-- ==== Sys2Proof/Laws/Memory.lean ====
section
/-! SUPPORT. The laws of the sparse memories: read after write, idempotence, and the canonical form that every write keeps. -/

namespace Sys2Proof.Machine

@[simp] theorem Memory.read_nil {α : Type} (k : Nat) : Memory.read ([] : Memory α) k = none := rfl

theorem Memory.read_write {α : Type} (m : Memory α) (k j : Nat) (v : α) :
    Memory.read (Memory.write m k v) j = if j = k then some v else Memory.read m j := by
  induction m with
  | nil => simp [Memory.write, Memory.read]
  | cons c rest ih =>
    obtain ⟨k', v'⟩ := c
    by_cases h1 : k < k'
    · simp [Memory.write, Memory.read, h1]
    · by_cases h2 : k = k'
      · subst h2; by_cases h3 : j = k <;> simp [Memory.write, Memory.read, h3]
      · by_cases h3 : j = k'
        · have h4 : j ≠ k := by omega
          simp [Memory.write, Memory.read, h1, h2, h3]
          omega
        · simp [Memory.write, Memory.read, h1, h2, h3, ih]

@[simp] theorem Memory.read_write_same {α : Type} (m : Memory α) (k : Nat) (v : α) :
    Memory.read (Memory.write m k v) k = some v := by simp [Memory.read_write]

theorem Memory.read_write_ne {α : Type} (m : Memory α) {k j : Nat} (v : α) (h : j ≠ k) :
    Memory.read (Memory.write m k v) j = Memory.read m j := by simp [Memory.read_write, h]

/-- The cells of a memory after a write are the written cell and cells it had. -/
theorem Memory.mem_write {α : Type} {m : Memory α} {k : Nat} {v : α} {c : Nat × α} (h : c ∈ Memory.write m k v) :
    c = (k, v) ∨ c ∈ m := by
  induction m with
  | nil => simpa [Memory.write] using h
  | cons d rest ih =>
    obtain ⟨k', v'⟩ := d
    by_cases h1 : k < k'
    · simpa [Memory.write, h1] using h
    · by_cases h2 : k = k'
      · simp only [Memory.write, h2, if_true, if_false, lt_irrefl, List.mem_cons] at h
        rcases h with h | h
        · exact .inl (by rw [h, h2])
        · exact .inr (List.mem_cons_of_mem _ h)
      · simp only [Memory.write, h1, h2, if_false, List.mem_cons] at h
        rcases h with h | h
        · exact .inr (by simp [h])
        · rcases ih h with h | h
          · exact .inl h
          · exact .inr (List.mem_cons_of_mem _ h)

/-- Every write keeps the canonical form. -/
theorem Memory.wf_write {α : Type} {m : Memory α} (k : Nat) (v : α) (h : Memory.wf m) : Memory.wf (Memory.write m k v) := by
  induction m with
  | nil => simp [Memory.write]
  | cons c rest ih =>
    obtain ⟨k', v'⟩ := c
    obtain ⟨hhead, htail⟩ := List.pairwise_cons.mp h
    by_cases h1 : k < k'
    · simp only [Memory.write, h1, if_true]
      refine List.pairwise_cons.mpr ⟨fun d hd => ?_, h⟩
      rcases List.mem_cons.mp hd with rfl | hd
      · exact h1
      · exact lt_trans h1 (hhead d hd)
    · by_cases h2 : k = k'
      · subst h2
        simp only [Memory.write, lt_irrefl, if_true, if_false]
        exact List.pairwise_cons.mpr ⟨hhead, htail⟩
      · simp only [Memory.write, h1, h2, if_false]
        refine List.pairwise_cons.mpr ⟨fun d hd => ?_, ih htail⟩
        rcases Memory.mem_write hd with rfl | hd
        · show k' < k
          omega
        · exact hhead d hd

/-- Writing a cell twice with one value is writing it once. -/
theorem Memory.write_write {α : Type} (m : Memory α) (k : Nat) (v : α) :
    Memory.write (Memory.write m k v) k v = Memory.write m k v := by
  induction m with
  | nil => simp [Memory.write]
  | cons c rest ih =>
    obtain ⟨k', v'⟩ := c
    by_cases h1 : k < k'
    · simp [Memory.write, h1]
    · by_cases h2 : k = k'
      · subst h2; simp [Memory.write]
      · simp [Memory.write, h1, h2, ih]

/-- Writes to two cells commute. -/
theorem Memory.write_comm {α : Type} (m : Memory α) {k j : Nat} (v w : α) (h : k < j) :
    Memory.write (Memory.write m j w) k v = Memory.write (Memory.write m k v) j w := by
  induction m with
  | nil =>
    have h1 : ¬ j < k := by omega
    have h2 : j ≠ k := by omega
    simp [Memory.write, h, h1, h2]
  | cons c rest ih =>
    obtain ⟨k', v'⟩ := c
    have hjk : ¬ j < k := by omega
    have hne : j ≠ k := by omega
    rcases lt_trichotomy k k' with h1 | h1 | h1
    · rcases lt_trichotomy j k' with h2 | h2 | h2
      · simp [Memory.write, h1, h2, h, hjk, hne]
      · subst h2; simp [Memory.write, h, hjk, hne]
      · simp [Memory.write, h1, hjk, hne, not_lt.mpr (le_of_lt h2), ne_of_gt h2]
    · subst h1; simp [Memory.write, hjk, hne]
    · rcases lt_trichotomy j k' with h2 | h2 | h2
      · omega
      · omega
      · simp [Memory.write, not_lt.mpr (le_of_lt h1), not_lt.mpr (le_of_lt h2), ne_of_gt h1, ne_of_gt h2, ih]

/-- Reset's memories are in canonical form. -/
theorem State.reset_wf : Memory.wf State.reset.lut ∧ Memory.wf State.reset.idx := ⟨List.Pairwise.nil, List.Pairwise.nil⟩

end Sys2Proof.Machine
end

