-- ==== Sys2Proof/Laws/State.lean ====
section
/-! SUPPORT. What each named update of the state leaves in each field: one lemma per field per update, so that no later proof
unfolds a record update. -/

namespace Sys2Proof.Machine

/-! ### setBusy -/

@[simp] theorem State.setBusy_busy (s : State) (b : Bool) : (s.setBusy b).busy = b := rfl
@[simp] theorem State.setBusy_werr (s : State) (b : Bool) : (s.setBusy b).werr = s.werr := rfl
@[simp] theorem State.setBusy_goerr (s : State) (b : Bool) : (s.setBusy b).goerr = s.goerr := rfl
@[simp] theorem State.setBusy_rowY (s : State) (b : Bool) : (s.setBusy b).rowY = s.rowY := rfl
@[simp] theorem State.setBusy_xOff (s : State) (b : Bool) : (s.setBusy b).xOff = s.xOff := rfl
@[simp] theorem State.setBusy_yOff (s : State) (b : Bool) : (s.setBusy b).yOff = s.yOff := rfl
@[simp] theorem State.setBusy_width (s : State) (b : Bool) : (s.setBusy b).width = s.width := rfl
@[simp] theorem State.setBusy_transpIdx (s : State) (b : Bool) : (s.setBusy b).transpIdx = s.transpIdx := rfl
@[simp] theorem State.setBusy_bgIdx (s : State) (b : Bool) : (s.setBusy b).bgIdx = s.bgIdx := rfl
@[simp] theorem State.setBusy_hasTransp (s : State) (b : Bool) : (s.setBusy b).hasTransp = s.hasTransp := rfl
@[simp] theorem State.setBusy_disposal (s : State) (b : Bool) : (s.setBusy b).disposal = s.disposal := rfl
@[simp] theorem State.setBusy_lastRow (s : State) (b : Bool) : (s.setBusy b).lastRow = s.lastRow := rfl
@[simp] theorem State.setBusy_panelW (s : State) (b : Bool) : (s.setBusy b).panelW = s.panelW := rfl
@[simp] theorem State.setBusy_panelH (s : State) (b : Bool) : (s.setBusy b).panelH = s.panelH := rfl
@[simp] theorem State.setBusy_lut (s : State) (b : Bool) : (s.setBusy b).lut = s.lut := rfl
@[simp] theorem State.setBusy_idx (s : State) (b : Bool) : (s.setBusy b).idx = s.idx := rfl
@[simp] theorem State.setBusy_events (s : State) (b : Bool) : (s.setBusy b).events = s.events := rfl
@[simp] theorem State.setBusy_responses (s : State) (b : Bool) : (s.setBusy b).responses = s.responses := rfl
@[simp] theorem State.setBusy_inbox (s : State) (b : Bool) : (s.setBusy b).inbox = s.inbox := rfl
@[simp] theorem State.setBusy_resets (s : State) (b : Bool) : (s.setBusy b).resets = s.resets := rfl

/-! ### setWerr -/

@[simp] theorem State.setWerr_busy (s : State) (b : Bool) : (s.setWerr b).busy = s.busy := rfl
@[simp] theorem State.setWerr_werr (s : State) (b : Bool) : (s.setWerr b).werr = b := rfl
@[simp] theorem State.setWerr_goerr (s : State) (b : Bool) : (s.setWerr b).goerr = s.goerr := rfl
@[simp] theorem State.setWerr_rowY (s : State) (b : Bool) : (s.setWerr b).rowY = s.rowY := rfl
@[simp] theorem State.setWerr_xOff (s : State) (b : Bool) : (s.setWerr b).xOff = s.xOff := rfl
@[simp] theorem State.setWerr_yOff (s : State) (b : Bool) : (s.setWerr b).yOff = s.yOff := rfl
@[simp] theorem State.setWerr_width (s : State) (b : Bool) : (s.setWerr b).width = s.width := rfl
@[simp] theorem State.setWerr_transpIdx (s : State) (b : Bool) : (s.setWerr b).transpIdx = s.transpIdx := rfl
@[simp] theorem State.setWerr_bgIdx (s : State) (b : Bool) : (s.setWerr b).bgIdx = s.bgIdx := rfl
@[simp] theorem State.setWerr_hasTransp (s : State) (b : Bool) : (s.setWerr b).hasTransp = s.hasTransp := rfl
@[simp] theorem State.setWerr_disposal (s : State) (b : Bool) : (s.setWerr b).disposal = s.disposal := rfl
@[simp] theorem State.setWerr_lastRow (s : State) (b : Bool) : (s.setWerr b).lastRow = s.lastRow := rfl
@[simp] theorem State.setWerr_panelW (s : State) (b : Bool) : (s.setWerr b).panelW = s.panelW := rfl
@[simp] theorem State.setWerr_panelH (s : State) (b : Bool) : (s.setWerr b).panelH = s.panelH := rfl
@[simp] theorem State.setWerr_lut (s : State) (b : Bool) : (s.setWerr b).lut = s.lut := rfl
@[simp] theorem State.setWerr_idx (s : State) (b : Bool) : (s.setWerr b).idx = s.idx := rfl
@[simp] theorem State.setWerr_events (s : State) (b : Bool) : (s.setWerr b).events = s.events := rfl
@[simp] theorem State.setWerr_responses (s : State) (b : Bool) : (s.setWerr b).responses = s.responses := rfl
@[simp] theorem State.setWerr_inbox (s : State) (b : Bool) : (s.setWerr b).inbox = s.inbox := rfl
@[simp] theorem State.setWerr_resets (s : State) (b : Bool) : (s.setWerr b).resets = s.resets := rfl

/-! ### setGoerr -/

@[simp] theorem State.setGoerr_busy (s : State) (b : Bool) : (s.setGoerr b).busy = s.busy := rfl
@[simp] theorem State.setGoerr_werr (s : State) (b : Bool) : (s.setGoerr b).werr = s.werr := rfl
@[simp] theorem State.setGoerr_goerr (s : State) (b : Bool) : (s.setGoerr b).goerr = b := rfl
@[simp] theorem State.setGoerr_rowY (s : State) (b : Bool) : (s.setGoerr b).rowY = s.rowY := rfl
@[simp] theorem State.setGoerr_xOff (s : State) (b : Bool) : (s.setGoerr b).xOff = s.xOff := rfl
@[simp] theorem State.setGoerr_yOff (s : State) (b : Bool) : (s.setGoerr b).yOff = s.yOff := rfl
@[simp] theorem State.setGoerr_width (s : State) (b : Bool) : (s.setGoerr b).width = s.width := rfl
@[simp] theorem State.setGoerr_transpIdx (s : State) (b : Bool) : (s.setGoerr b).transpIdx = s.transpIdx := rfl
@[simp] theorem State.setGoerr_bgIdx (s : State) (b : Bool) : (s.setGoerr b).bgIdx = s.bgIdx := rfl
@[simp] theorem State.setGoerr_hasTransp (s : State) (b : Bool) : (s.setGoerr b).hasTransp = s.hasTransp := rfl
@[simp] theorem State.setGoerr_disposal (s : State) (b : Bool) : (s.setGoerr b).disposal = s.disposal := rfl
@[simp] theorem State.setGoerr_lastRow (s : State) (b : Bool) : (s.setGoerr b).lastRow = s.lastRow := rfl
@[simp] theorem State.setGoerr_panelW (s : State) (b : Bool) : (s.setGoerr b).panelW = s.panelW := rfl
@[simp] theorem State.setGoerr_panelH (s : State) (b : Bool) : (s.setGoerr b).panelH = s.panelH := rfl
@[simp] theorem State.setGoerr_lut (s : State) (b : Bool) : (s.setGoerr b).lut = s.lut := rfl
@[simp] theorem State.setGoerr_idx (s : State) (b : Bool) : (s.setGoerr b).idx = s.idx := rfl
@[simp] theorem State.setGoerr_events (s : State) (b : Bool) : (s.setGoerr b).events = s.events := rfl
@[simp] theorem State.setGoerr_responses (s : State) (b : Bool) : (s.setGoerr b).responses = s.responses := rfl
@[simp] theorem State.setGoerr_inbox (s : State) (b : Bool) : (s.setGoerr b).inbox = s.inbox := rfl
@[simp] theorem State.setGoerr_resets (s : State) (b : Bool) : (s.setGoerr b).resets = s.resets := rfl

/-! ### putRowY -/

@[simp] theorem State.putRowY_busy (s : State) (y : BitVec 16) : (s.putRowY y).busy = s.busy := rfl
@[simp] theorem State.putRowY_werr (s : State) (y : BitVec 16) : (s.putRowY y).werr = s.werr := rfl
@[simp] theorem State.putRowY_goerr (s : State) (y : BitVec 16) : (s.putRowY y).goerr = s.goerr := rfl
@[simp] theorem State.putRowY_rowY (s : State) (y : BitVec 16) : (s.putRowY y).rowY = y := rfl
@[simp] theorem State.putRowY_xOff (s : State) (y : BitVec 16) : (s.putRowY y).xOff = s.xOff := rfl
@[simp] theorem State.putRowY_yOff (s : State) (y : BitVec 16) : (s.putRowY y).yOff = s.yOff := rfl
@[simp] theorem State.putRowY_width (s : State) (y : BitVec 16) : (s.putRowY y).width = s.width := rfl
@[simp] theorem State.putRowY_transpIdx (s : State) (y : BitVec 16) : (s.putRowY y).transpIdx = s.transpIdx := rfl
@[simp] theorem State.putRowY_bgIdx (s : State) (y : BitVec 16) : (s.putRowY y).bgIdx = s.bgIdx := rfl
@[simp] theorem State.putRowY_hasTransp (s : State) (y : BitVec 16) : (s.putRowY y).hasTransp = s.hasTransp := rfl
@[simp] theorem State.putRowY_disposal (s : State) (y : BitVec 16) : (s.putRowY y).disposal = s.disposal := rfl
@[simp] theorem State.putRowY_lastRow (s : State) (y : BitVec 16) : (s.putRowY y).lastRow = s.lastRow := rfl
@[simp] theorem State.putRowY_panelW (s : State) (y : BitVec 16) : (s.putRowY y).panelW = s.panelW := rfl
@[simp] theorem State.putRowY_panelH (s : State) (y : BitVec 16) : (s.putRowY y).panelH = s.panelH := rfl
@[simp] theorem State.putRowY_lut (s : State) (y : BitVec 16) : (s.putRowY y).lut = s.lut := rfl
@[simp] theorem State.putRowY_idx (s : State) (y : BitVec 16) : (s.putRowY y).idx = s.idx := rfl
@[simp] theorem State.putRowY_events (s : State) (y : BitVec 16) : (s.putRowY y).events = s.events := rfl
@[simp] theorem State.putRowY_responses (s : State) (y : BitVec 16) : (s.putRowY y).responses = s.responses := rfl
@[simp] theorem State.putRowY_inbox (s : State) (y : BitVec 16) : (s.putRowY y).inbox = s.inbox := rfl
@[simp] theorem State.putRowY_resets (s : State) (y : BitVec 16) : (s.putRowY y).resets = s.resets := rfl

/-! ### putOffset -/

@[simp] theorem State.putOffset_busy (s : State) (x y : BitVec 16) : (s.putOffset x y).busy = s.busy := rfl
@[simp] theorem State.putOffset_werr (s : State) (x y : BitVec 16) : (s.putOffset x y).werr = s.werr := rfl
@[simp] theorem State.putOffset_goerr (s : State) (x y : BitVec 16) : (s.putOffset x y).goerr = s.goerr := rfl
@[simp] theorem State.putOffset_rowY (s : State) (x y : BitVec 16) : (s.putOffset x y).rowY = s.rowY := rfl
@[simp] theorem State.putOffset_xOff (s : State) (x y : BitVec 16) : (s.putOffset x y).xOff = x := rfl
@[simp] theorem State.putOffset_yOff (s : State) (x y : BitVec 16) : (s.putOffset x y).yOff = y := rfl
@[simp] theorem State.putOffset_width (s : State) (x y : BitVec 16) : (s.putOffset x y).width = s.width := rfl
@[simp] theorem State.putOffset_transpIdx (s : State) (x y : BitVec 16) : (s.putOffset x y).transpIdx = s.transpIdx := rfl
@[simp] theorem State.putOffset_bgIdx (s : State) (x y : BitVec 16) : (s.putOffset x y).bgIdx = s.bgIdx := rfl
@[simp] theorem State.putOffset_hasTransp (s : State) (x y : BitVec 16) : (s.putOffset x y).hasTransp = s.hasTransp := rfl
@[simp] theorem State.putOffset_disposal (s : State) (x y : BitVec 16) : (s.putOffset x y).disposal = s.disposal := rfl
@[simp] theorem State.putOffset_lastRow (s : State) (x y : BitVec 16) : (s.putOffset x y).lastRow = s.lastRow := rfl
@[simp] theorem State.putOffset_panelW (s : State) (x y : BitVec 16) : (s.putOffset x y).panelW = s.panelW := rfl
@[simp] theorem State.putOffset_panelH (s : State) (x y : BitVec 16) : (s.putOffset x y).panelH = s.panelH := rfl
@[simp] theorem State.putOffset_lut (s : State) (x y : BitVec 16) : (s.putOffset x y).lut = s.lut := rfl
@[simp] theorem State.putOffset_idx (s : State) (x y : BitVec 16) : (s.putOffset x y).idx = s.idx := rfl
@[simp] theorem State.putOffset_events (s : State) (x y : BitVec 16) : (s.putOffset x y).events = s.events := rfl
@[simp] theorem State.putOffset_responses (s : State) (x y : BitVec 16) : (s.putOffset x y).responses = s.responses := rfl
@[simp] theorem State.putOffset_inbox (s : State) (x y : BitVec 16) : (s.putOffset x y).inbox = s.inbox := rfl
@[simp] theorem State.putOffset_resets (s : State) (x y : BitVec 16) : (s.putOffset x y).resets = s.resets := rfl

/-! ### putWidth -/

@[simp] theorem State.putWidth_busy (s : State) (w : BitVec 16) : (s.putWidth w).busy = s.busy := rfl
@[simp] theorem State.putWidth_werr (s : State) (w : BitVec 16) : (s.putWidth w).werr = s.werr := rfl
@[simp] theorem State.putWidth_goerr (s : State) (w : BitVec 16) : (s.putWidth w).goerr = s.goerr := rfl
@[simp] theorem State.putWidth_rowY (s : State) (w : BitVec 16) : (s.putWidth w).rowY = s.rowY := rfl
@[simp] theorem State.putWidth_xOff (s : State) (w : BitVec 16) : (s.putWidth w).xOff = s.xOff := rfl
@[simp] theorem State.putWidth_yOff (s : State) (w : BitVec 16) : (s.putWidth w).yOff = s.yOff := rfl
@[simp] theorem State.putWidth_width (s : State) (w : BitVec 16) : (s.putWidth w).width = w := rfl
@[simp] theorem State.putWidth_transpIdx (s : State) (w : BitVec 16) : (s.putWidth w).transpIdx = s.transpIdx := rfl
@[simp] theorem State.putWidth_bgIdx (s : State) (w : BitVec 16) : (s.putWidth w).bgIdx = s.bgIdx := rfl
@[simp] theorem State.putWidth_hasTransp (s : State) (w : BitVec 16) : (s.putWidth w).hasTransp = s.hasTransp := rfl
@[simp] theorem State.putWidth_disposal (s : State) (w : BitVec 16) : (s.putWidth w).disposal = s.disposal := rfl
@[simp] theorem State.putWidth_lastRow (s : State) (w : BitVec 16) : (s.putWidth w).lastRow = s.lastRow := rfl
@[simp] theorem State.putWidth_panelW (s : State) (w : BitVec 16) : (s.putWidth w).panelW = s.panelW := rfl
@[simp] theorem State.putWidth_panelH (s : State) (w : BitVec 16) : (s.putWidth w).panelH = s.panelH := rfl
@[simp] theorem State.putWidth_lut (s : State) (w : BitVec 16) : (s.putWidth w).lut = s.lut := rfl
@[simp] theorem State.putWidth_idx (s : State) (w : BitVec 16) : (s.putWidth w).idx = s.idx := rfl
@[simp] theorem State.putWidth_events (s : State) (w : BitVec 16) : (s.putWidth w).events = s.events := rfl
@[simp] theorem State.putWidth_responses (s : State) (w : BitVec 16) : (s.putWidth w).responses = s.responses := rfl
@[simp] theorem State.putWidth_inbox (s : State) (w : BitVec 16) : (s.putWidth w).inbox = s.inbox := rfl
@[simp] theorem State.putWidth_resets (s : State) (w : BitVec 16) : (s.putWidth w).resets = s.resets := rfl

/-! ### putMeta -/

@[simp] theorem State.putMeta_busy (s : State) (t b : Index) (h : Bool) (d : BitVec 3) (l : Bool) : (s.putMeta t b h d l).busy = s.busy := rfl
@[simp] theorem State.putMeta_werr (s : State) (t b : Index) (h : Bool) (d : BitVec 3) (l : Bool) : (s.putMeta t b h d l).werr = s.werr := rfl
@[simp] theorem State.putMeta_goerr (s : State) (t b : Index) (h : Bool) (d : BitVec 3) (l : Bool) : (s.putMeta t b h d l).goerr = s.goerr := rfl
@[simp] theorem State.putMeta_rowY (s : State) (t b : Index) (h : Bool) (d : BitVec 3) (l : Bool) : (s.putMeta t b h d l).rowY = s.rowY := rfl
@[simp] theorem State.putMeta_xOff (s : State) (t b : Index) (h : Bool) (d : BitVec 3) (l : Bool) : (s.putMeta t b h d l).xOff = s.xOff := rfl
@[simp] theorem State.putMeta_yOff (s : State) (t b : Index) (h : Bool) (d : BitVec 3) (l : Bool) : (s.putMeta t b h d l).yOff = s.yOff := rfl
@[simp] theorem State.putMeta_width (s : State) (t b : Index) (h : Bool) (d : BitVec 3) (l : Bool) : (s.putMeta t b h d l).width = s.width := rfl
@[simp] theorem State.putMeta_transpIdx (s : State) (t b : Index) (h : Bool) (d : BitVec 3) (l : Bool) : (s.putMeta t b h d l).transpIdx = t := rfl
@[simp] theorem State.putMeta_bgIdx (s : State) (t b : Index) (h : Bool) (d : BitVec 3) (l : Bool) : (s.putMeta t b h d l).bgIdx = b := rfl
@[simp] theorem State.putMeta_hasTransp (s : State) (t b : Index) (h : Bool) (d : BitVec 3) (l : Bool) : (s.putMeta t b h d l).hasTransp = h := rfl
@[simp] theorem State.putMeta_disposal (s : State) (t b : Index) (h : Bool) (d : BitVec 3) (l : Bool) : (s.putMeta t b h d l).disposal = d := rfl
@[simp] theorem State.putMeta_lastRow (s : State) (t b : Index) (h : Bool) (d : BitVec 3) (l : Bool) : (s.putMeta t b h d l).lastRow = l := rfl
@[simp] theorem State.putMeta_panelW (s : State) (t b : Index) (h : Bool) (d : BitVec 3) (l : Bool) : (s.putMeta t b h d l).panelW = s.panelW := rfl
@[simp] theorem State.putMeta_panelH (s : State) (t b : Index) (h : Bool) (d : BitVec 3) (l : Bool) : (s.putMeta t b h d l).panelH = s.panelH := rfl
@[simp] theorem State.putMeta_lut (s : State) (t b : Index) (h : Bool) (d : BitVec 3) (l : Bool) : (s.putMeta t b h d l).lut = s.lut := rfl
@[simp] theorem State.putMeta_idx (s : State) (t b : Index) (h : Bool) (d : BitVec 3) (l : Bool) : (s.putMeta t b h d l).idx = s.idx := rfl
@[simp] theorem State.putMeta_events (s : State) (t b : Index) (h : Bool) (d : BitVec 3) (l : Bool) : (s.putMeta t b h d l).events = s.events := rfl
@[simp] theorem State.putMeta_responses (s : State) (t b : Index) (h : Bool) (d : BitVec 3) (l : Bool) : (s.putMeta t b h d l).responses = s.responses := rfl
@[simp] theorem State.putMeta_inbox (s : State) (t b : Index) (h : Bool) (d : BitVec 3) (l : Bool) : (s.putMeta t b h d l).inbox = s.inbox := rfl
@[simp] theorem State.putMeta_resets (s : State) (t b : Index) (h : Bool) (d : BitVec 3) (l : Bool) : (s.putMeta t b h d l).resets = s.resets := rfl

/-! ### putLut -/

@[simp] theorem State.putLut_busy (s : State) (n : Index) (c : Colour) : (s.putLut n c).busy = s.busy := rfl
@[simp] theorem State.putLut_werr (s : State) (n : Index) (c : Colour) : (s.putLut n c).werr = s.werr := rfl
@[simp] theorem State.putLut_goerr (s : State) (n : Index) (c : Colour) : (s.putLut n c).goerr = s.goerr := rfl
@[simp] theorem State.putLut_rowY (s : State) (n : Index) (c : Colour) : (s.putLut n c).rowY = s.rowY := rfl
@[simp] theorem State.putLut_xOff (s : State) (n : Index) (c : Colour) : (s.putLut n c).xOff = s.xOff := rfl
@[simp] theorem State.putLut_yOff (s : State) (n : Index) (c : Colour) : (s.putLut n c).yOff = s.yOff := rfl
@[simp] theorem State.putLut_width (s : State) (n : Index) (c : Colour) : (s.putLut n c).width = s.width := rfl
@[simp] theorem State.putLut_transpIdx (s : State) (n : Index) (c : Colour) : (s.putLut n c).transpIdx = s.transpIdx := rfl
@[simp] theorem State.putLut_bgIdx (s : State) (n : Index) (c : Colour) : (s.putLut n c).bgIdx = s.bgIdx := rfl
@[simp] theorem State.putLut_hasTransp (s : State) (n : Index) (c : Colour) : (s.putLut n c).hasTransp = s.hasTransp := rfl
@[simp] theorem State.putLut_disposal (s : State) (n : Index) (c : Colour) : (s.putLut n c).disposal = s.disposal := rfl
@[simp] theorem State.putLut_lastRow (s : State) (n : Index) (c : Colour) : (s.putLut n c).lastRow = s.lastRow := rfl
@[simp] theorem State.putLut_panelW (s : State) (n : Index) (c : Colour) : (s.putLut n c).panelW = s.panelW := rfl
@[simp] theorem State.putLut_panelH (s : State) (n : Index) (c : Colour) : (s.putLut n c).panelH = s.panelH := rfl
@[simp] theorem State.putLut_lut (s : State) (n : Index) (c : Colour) : (s.putLut n c).lut = Memory.write s.lut n.toNat c := rfl
@[simp] theorem State.putLut_idx (s : State) (n : Index) (c : Colour) : (s.putLut n c).idx = s.idx := rfl
@[simp] theorem State.putLut_events (s : State) (n : Index) (c : Colour) : (s.putLut n c).events = s.events := rfl
@[simp] theorem State.putLut_responses (s : State) (n : Index) (c : Colour) : (s.putLut n c).responses = s.responses := rfl
@[simp] theorem State.putLut_inbox (s : State) (n : Index) (c : Colour) : (s.putLut n c).inbox = s.inbox := rfl
@[simp] theorem State.putLut_resets (s : State) (n : Index) (c : Colour) : (s.putLut n c).resets = s.resets := rfl

/-! ### respond -/

@[simp] theorem State.respond_busy (s : State) (w : Word) : (s.respond w).busy = s.busy := rfl
@[simp] theorem State.respond_werr (s : State) (w : Word) : (s.respond w).werr = s.werr := rfl
@[simp] theorem State.respond_goerr (s : State) (w : Word) : (s.respond w).goerr = s.goerr := rfl
@[simp] theorem State.respond_rowY (s : State) (w : Word) : (s.respond w).rowY = s.rowY := rfl
@[simp] theorem State.respond_xOff (s : State) (w : Word) : (s.respond w).xOff = s.xOff := rfl
@[simp] theorem State.respond_yOff (s : State) (w : Word) : (s.respond w).yOff = s.yOff := rfl
@[simp] theorem State.respond_width (s : State) (w : Word) : (s.respond w).width = s.width := rfl
@[simp] theorem State.respond_transpIdx (s : State) (w : Word) : (s.respond w).transpIdx = s.transpIdx := rfl
@[simp] theorem State.respond_bgIdx (s : State) (w : Word) : (s.respond w).bgIdx = s.bgIdx := rfl
@[simp] theorem State.respond_hasTransp (s : State) (w : Word) : (s.respond w).hasTransp = s.hasTransp := rfl
@[simp] theorem State.respond_disposal (s : State) (w : Word) : (s.respond w).disposal = s.disposal := rfl
@[simp] theorem State.respond_lastRow (s : State) (w : Word) : (s.respond w).lastRow = s.lastRow := rfl
@[simp] theorem State.respond_panelW (s : State) (w : Word) : (s.respond w).panelW = s.panelW := rfl
@[simp] theorem State.respond_panelH (s : State) (w : Word) : (s.respond w).panelH = s.panelH := rfl
@[simp] theorem State.respond_lut (s : State) (w : Word) : (s.respond w).lut = s.lut := rfl
@[simp] theorem State.respond_idx (s : State) (w : Word) : (s.respond w).idx = s.idx := rfl
@[simp] theorem State.respond_events (s : State) (w : Word) : (s.respond w).events = s.events := rfl
@[simp] theorem State.respond_responses (s : State) (w : Word) : (s.respond w).responses = s.responses ++ [w] := rfl
@[simp] theorem State.respond_inbox (s : State) (w : Word) : (s.respond w).inbox = s.inbox := rfl
@[simp] theorem State.respond_resets (s : State) (w : Word) : (s.respond w).resets = s.resets := rfl

/-! ### issue -/

@[simp] theorem State.issue_busy (s : State) (es : List SinkEvent) : (s.issue es).busy = s.busy := rfl
@[simp] theorem State.issue_werr (s : State) (es : List SinkEvent) : (s.issue es).werr = s.werr := rfl
@[simp] theorem State.issue_goerr (s : State) (es : List SinkEvent) : (s.issue es).goerr = s.goerr := rfl
@[simp] theorem State.issue_rowY (s : State) (es : List SinkEvent) : (s.issue es).rowY = s.rowY := rfl
@[simp] theorem State.issue_xOff (s : State) (es : List SinkEvent) : (s.issue es).xOff = s.xOff := rfl
@[simp] theorem State.issue_yOff (s : State) (es : List SinkEvent) : (s.issue es).yOff = s.yOff := rfl
@[simp] theorem State.issue_width (s : State) (es : List SinkEvent) : (s.issue es).width = s.width := rfl
@[simp] theorem State.issue_transpIdx (s : State) (es : List SinkEvent) : (s.issue es).transpIdx = s.transpIdx := rfl
@[simp] theorem State.issue_bgIdx (s : State) (es : List SinkEvent) : (s.issue es).bgIdx = s.bgIdx := rfl
@[simp] theorem State.issue_hasTransp (s : State) (es : List SinkEvent) : (s.issue es).hasTransp = s.hasTransp := rfl
@[simp] theorem State.issue_disposal (s : State) (es : List SinkEvent) : (s.issue es).disposal = s.disposal := rfl
@[simp] theorem State.issue_lastRow (s : State) (es : List SinkEvent) : (s.issue es).lastRow = s.lastRow := rfl
@[simp] theorem State.issue_panelW (s : State) (es : List SinkEvent) : (s.issue es).panelW = s.panelW := rfl
@[simp] theorem State.issue_panelH (s : State) (es : List SinkEvent) : (s.issue es).panelH = s.panelH := rfl
@[simp] theorem State.issue_lut (s : State) (es : List SinkEvent) : (s.issue es).lut = s.lut := rfl
@[simp] theorem State.issue_idx (s : State) (es : List SinkEvent) : (s.issue es).idx = s.idx := rfl
@[simp] theorem State.issue_events (s : State) (es : List SinkEvent) : (s.issue es).events = s.events ++ es := rfl
@[simp] theorem State.issue_responses (s : State) (es : List SinkEvent) : (s.issue es).responses = s.responses := rfl
@[simp] theorem State.issue_inbox (s : State) (es : List SinkEvent) : (s.issue es).inbox = s.inbox := rfl
@[simp] theorem State.issue_resets (s : State) (es : List SinkEvent) : (s.issue es).resets = s.resets := rfl

/-! ### resetStep -/

@[simp] theorem State.resetStep_busy (s : State) : s.resetStep.busy = false := rfl
@[simp] theorem State.resetStep_werr (s : State) : s.resetStep.werr = false := rfl
@[simp] theorem State.resetStep_goerr (s : State) : s.resetStep.goerr = false := rfl
@[simp] theorem State.resetStep_rowY (s : State) : s.resetStep.rowY = 0 := rfl
@[simp] theorem State.resetStep_xOff (s : State) : s.resetStep.xOff = 0 := rfl
@[simp] theorem State.resetStep_yOff (s : State) : s.resetStep.yOff = 0 := rfl
@[simp] theorem State.resetStep_width (s : State) : s.resetStep.width = 0 := rfl
@[simp] theorem State.resetStep_transpIdx (s : State) : s.resetStep.transpIdx = 0 := rfl
@[simp] theorem State.resetStep_bgIdx (s : State) : s.resetStep.bgIdx = 0 := rfl
@[simp] theorem State.resetStep_hasTransp (s : State) : s.resetStep.hasTransp = false := rfl
@[simp] theorem State.resetStep_disposal (s : State) : s.resetStep.disposal = 0 := rfl
@[simp] theorem State.resetStep_lastRow (s : State) : s.resetStep.lastRow = false := rfl
@[simp] theorem State.resetStep_panelW (s : State) : s.resetStep.panelW = s.panelW := rfl
@[simp] theorem State.resetStep_panelH (s : State) : s.resetStep.panelH = s.panelH := rfl
@[simp] theorem State.resetStep_lut (s : State) : s.resetStep.lut = [] := rfl
@[simp] theorem State.resetStep_idx (s : State) : s.resetStep.idx = [] := rfl
@[simp] theorem State.resetStep_events (s : State) : s.resetStep.events = s.events := rfl
@[simp] theorem State.resetStep_responses (s : State) : s.resetStep.responses = s.responses := rfl
@[simp] theorem State.resetStep_inbox (s : State) : s.resetStep.inbox = s.inbox := rfl
@[simp] theorem State.resetStep_resets (s : State) : s.resetStep.resets = s.resets + 1 := rfl

/-! ### putLane and putIdx: only `idx` changes -/

@[simp] theorem State.putLane_busy (s : State) (col : Nat) (b : Index) : (s.putLane col b).busy = s.busy := by
  unfold State.putLane; split <;> rfl
@[simp] theorem State.putLane_werr (s : State) (col : Nat) (b : Index) : (s.putLane col b).werr = s.werr := by
  unfold State.putLane; split <;> rfl
@[simp] theorem State.putLane_goerr (s : State) (col : Nat) (b : Index) : (s.putLane col b).goerr = s.goerr := by
  unfold State.putLane; split <;> rfl
@[simp] theorem State.putLane_rowY (s : State) (col : Nat) (b : Index) : (s.putLane col b).rowY = s.rowY := by
  unfold State.putLane; split <;> rfl
@[simp] theorem State.putLane_xOff (s : State) (col : Nat) (b : Index) : (s.putLane col b).xOff = s.xOff := by
  unfold State.putLane; split <;> rfl
@[simp] theorem State.putLane_yOff (s : State) (col : Nat) (b : Index) : (s.putLane col b).yOff = s.yOff := by
  unfold State.putLane; split <;> rfl
@[simp] theorem State.putLane_width (s : State) (col : Nat) (b : Index) : (s.putLane col b).width = s.width := by
  unfold State.putLane; split <;> rfl
@[simp] theorem State.putLane_transpIdx (s : State) (col : Nat) (b : Index) : (s.putLane col b).transpIdx = s.transpIdx := by
  unfold State.putLane; split <;> rfl
@[simp] theorem State.putLane_bgIdx (s : State) (col : Nat) (b : Index) : (s.putLane col b).bgIdx = s.bgIdx := by
  unfold State.putLane; split <;> rfl
@[simp] theorem State.putLane_hasTransp (s : State) (col : Nat) (b : Index) : (s.putLane col b).hasTransp = s.hasTransp := by
  unfold State.putLane; split <;> rfl
@[simp] theorem State.putLane_disposal (s : State) (col : Nat) (b : Index) : (s.putLane col b).disposal = s.disposal := by
  unfold State.putLane; split <;> rfl
@[simp] theorem State.putLane_lastRow (s : State) (col : Nat) (b : Index) : (s.putLane col b).lastRow = s.lastRow := by
  unfold State.putLane; split <;> rfl
@[simp] theorem State.putLane_panelW (s : State) (col : Nat) (b : Index) : (s.putLane col b).panelW = s.panelW := by
  unfold State.putLane; split <;> rfl
@[simp] theorem State.putLane_panelH (s : State) (col : Nat) (b : Index) : (s.putLane col b).panelH = s.panelH := by
  unfold State.putLane; split <;> rfl
@[simp] theorem State.putLane_lut (s : State) (col : Nat) (b : Index) : (s.putLane col b).lut = s.lut := by
  unfold State.putLane; split <;> rfl
@[simp] theorem State.putLane_events (s : State) (col : Nat) (b : Index) : (s.putLane col b).events = s.events := by
  unfold State.putLane; split <;> rfl
@[simp] theorem State.putLane_responses (s : State) (col : Nat) (b : Index) : (s.putLane col b).responses = s.responses := by
  unfold State.putLane; split <;> rfl
@[simp] theorem State.putLane_inbox (s : State) (col : Nat) (b : Index) : (s.putLane col b).inbox = s.inbox := by
  unfold State.putLane; split <;> rfl
@[simp] theorem State.putLane_resets (s : State) (col : Nat) (b : Index) : (s.putLane col b).resets = s.resets := by
  unfold State.putLane; split <;> rfl
@[simp] theorem State.putIdx_busy (s : State) (w : BitVec 10) (b0 b1 b2 b3 : Index) :
    (s.putIdx w b0 b1 b2 b3).busy = s.busy := by
  unfold State.putIdx; split <;> simp
@[simp] theorem State.putIdx_werr (s : State) (w : BitVec 10) (b0 b1 b2 b3 : Index) :
    (s.putIdx w b0 b1 b2 b3).werr = s.werr := by
  unfold State.putIdx; split <;> simp
@[simp] theorem State.putIdx_goerr (s : State) (w : BitVec 10) (b0 b1 b2 b3 : Index) :
    (s.putIdx w b0 b1 b2 b3).goerr = s.goerr := by
  unfold State.putIdx; split <;> simp
@[simp] theorem State.putIdx_rowY (s : State) (w : BitVec 10) (b0 b1 b2 b3 : Index) :
    (s.putIdx w b0 b1 b2 b3).rowY = s.rowY := by
  unfold State.putIdx; split <;> simp
@[simp] theorem State.putIdx_xOff (s : State) (w : BitVec 10) (b0 b1 b2 b3 : Index) :
    (s.putIdx w b0 b1 b2 b3).xOff = s.xOff := by
  unfold State.putIdx; split <;> simp
@[simp] theorem State.putIdx_yOff (s : State) (w : BitVec 10) (b0 b1 b2 b3 : Index) :
    (s.putIdx w b0 b1 b2 b3).yOff = s.yOff := by
  unfold State.putIdx; split <;> simp
@[simp] theorem State.putIdx_width (s : State) (w : BitVec 10) (b0 b1 b2 b3 : Index) :
    (s.putIdx w b0 b1 b2 b3).width = s.width := by
  unfold State.putIdx; split <;> simp
@[simp] theorem State.putIdx_transpIdx (s : State) (w : BitVec 10) (b0 b1 b2 b3 : Index) :
    (s.putIdx w b0 b1 b2 b3).transpIdx = s.transpIdx := by
  unfold State.putIdx; split <;> simp
@[simp] theorem State.putIdx_bgIdx (s : State) (w : BitVec 10) (b0 b1 b2 b3 : Index) :
    (s.putIdx w b0 b1 b2 b3).bgIdx = s.bgIdx := by
  unfold State.putIdx; split <;> simp
@[simp] theorem State.putIdx_hasTransp (s : State) (w : BitVec 10) (b0 b1 b2 b3 : Index) :
    (s.putIdx w b0 b1 b2 b3).hasTransp = s.hasTransp := by
  unfold State.putIdx; split <;> simp
@[simp] theorem State.putIdx_disposal (s : State) (w : BitVec 10) (b0 b1 b2 b3 : Index) :
    (s.putIdx w b0 b1 b2 b3).disposal = s.disposal := by
  unfold State.putIdx; split <;> simp
@[simp] theorem State.putIdx_lastRow (s : State) (w : BitVec 10) (b0 b1 b2 b3 : Index) :
    (s.putIdx w b0 b1 b2 b3).lastRow = s.lastRow := by
  unfold State.putIdx; split <;> simp
@[simp] theorem State.putIdx_panelW (s : State) (w : BitVec 10) (b0 b1 b2 b3 : Index) :
    (s.putIdx w b0 b1 b2 b3).panelW = s.panelW := by
  unfold State.putIdx; split <;> simp
@[simp] theorem State.putIdx_panelH (s : State) (w : BitVec 10) (b0 b1 b2 b3 : Index) :
    (s.putIdx w b0 b1 b2 b3).panelH = s.panelH := by
  unfold State.putIdx; split <;> simp
@[simp] theorem State.putIdx_lut (s : State) (w : BitVec 10) (b0 b1 b2 b3 : Index) :
    (s.putIdx w b0 b1 b2 b3).lut = s.lut := by
  unfold State.putIdx; split <;> simp
@[simp] theorem State.putIdx_events (s : State) (w : BitVec 10) (b0 b1 b2 b3 : Index) :
    (s.putIdx w b0 b1 b2 b3).events = s.events := by
  unfold State.putIdx; split <;> simp
@[simp] theorem State.putIdx_responses (s : State) (w : BitVec 10) (b0 b1 b2 b3 : Index) :
    (s.putIdx w b0 b1 b2 b3).responses = s.responses := by
  unfold State.putIdx; split <;> simp
@[simp] theorem State.putIdx_inbox (s : State) (w : BitVec 10) (b0 b1 b2 b3 : Index) :
    (s.putIdx w b0 b1 b2 b3).inbox = s.inbox := by
  unfold State.putIdx; split <;> simp
@[simp] theorem State.putIdx_resets (s : State) (w : BitVec 10) (b0 b1 b2 b3 : Index) :
    (s.putIdx w b0 b1 b2 b3).resets = s.resets := by
  unfold State.putIdx; split <;> simp

end Sys2Proof.Machine
end

