-- ==== Sys2Proof/Laws/Ops.lean ====
section
/-! SUPPORT. What each shared operation can do, said once. -/

namespace Sys2Proof.Machine

/-! ### Flags -/

theorem State.takeGo_idle {s : State} (h : s.busy = false) : s.takeGo = { s with busy := true } := by
  simp [State.takeGo, State.setBusy, h]

theorem State.takeGo_busy {s : State} (h : s.busy = true) : s.takeGo = { s with goerr := true } := by
  simp [State.takeGo, State.setGoerr, h]

/-- WR_STATUS's effect: each error flag is kept unless it is asked to clear (R105). -/
theorem State.clearErrors_eq (s : State) (cw cg : Bool) :
    s.clearErrors cw cg = { s with werr := s.werr && !cw, goerr := s.goerr && !cg } := rfl

/-- The bits of the STATUS word (R104). -/
theorem State.statusWord_bits (s : State) :
    s.statusWord.getLsbD 0 = s.busy ∧ s.statusWord.getLsbD 1 = s.werr ∧ s.statusWord.getLsbD 2 = s.goerr ∧
      ∀ k, 3 ≤ k → s.statusWord.getLsbD k = false := by
  refine ⟨by simp [State.statusWord], by simp [State.statusWord], by simp [State.statusWord], fun k hk => ?_⟩
  simp [State.statusWord]
  grind

/-! ### The guard (R108) -/

theorem State.guarded_busy {s : State} (h : s.busy = true) (f : State → State) : s.guarded f = { s with werr := true } := by
  simp [State.guarded, State.setWerr, h]

theorem State.guarded_idle {s : State} (h : s.busy = false) (f : State → State) : s.guarded f = f s := by
  simp [State.guarded, h]

/-! ### The palette LUT -/

theorem State.lutAt_putLut (s : State) (n m : Index) (c : Colour) :
    (s.putLut n c).lutAt m = if m = n then some c else s.lutAt m := by
  simp [State.lutAt, Memory.read_write, BitVec.toNat_inj]

theorem State.putLut_keepsForm {s : State} (n : Index) (c : Colour)
    (h : Memory.wf s.lut ∧ ∀ p ∈ s.lut, p.1 < 256) :
    Memory.wf (s.putLut n c).lut ∧ ∀ p ∈ (s.putLut n c).lut, p.1 < 256 := by
  refine ⟨Memory.wf_write _ _ h.1, fun p hp => ?_⟩
  rcases Memory.mem_write hp with rfl | hp
  · exact n.isLt
  · exact h.2 p hp

/-! ### IDX RAM -/

theorem State.idxAt_putLane (s : State) (col j : Nat) (b : Index) :
    (s.putLane col b).idxAt j = if j = col ∧ col < s.panelW then some b else s.idxAt j := by
  unfold State.putLane
  split <;> rename_i h <;> simp [State.idxAt, Memory.read_write, h]

theorem State.putLane_keepsForm {s : State} (col : Nat) (b : Index)
    (h : Memory.wf s.idx ∧ ∀ p ∈ s.idx, p.1 < s.panelW) :
    Memory.wf (s.putLane col b).idx ∧ ∀ p ∈ (s.putLane col b).idx, p.1 < (s.putLane col b).panelW := by
  unfold State.putLane
  split
  · rename_i hc
    refine ⟨Memory.wf_write _ _ h.1, fun p hp => ?_⟩
    rcases Memory.mem_write hp with rfl | hp
    · exact hc
    · exact h.2 p hp
  · exact h

/-- What every column holds after WR_IDX's store: the four lanes below PANEL_W, else what it held (R140). -/
theorem State.idxAt_putIdx (s : State) (w : BitVec 10) (b0 b1 b2 b3 : Index) (j : Nat) :
    (s.putIdx w b0 b1 b2 b3).idxAt j =
      if j < s.panelW ∧ j = 4 * w.toNat then some b0
      else if j < s.panelW ∧ j = 4 * w.toNat + 1 then some b1
      else if j < s.panelW ∧ j = 4 * w.toNat + 2 then some b2
      else if j < s.panelW ∧ j = 4 * w.toNat + 3 then some b3
      else s.idxAt j := by
  unfold State.putIdx State.idxWords
  split
  · simp only [State.idxAt_putLane, State.putLane_panelW]
    repeat' split
    all_goals first | rfl | omega
  · repeat' split
    all_goals first | rfl | omega

theorem State.putIdx_keepsForm {s : State} (w : BitVec 10) (b0 b1 b2 b3 : Index)
    (h : Memory.wf s.idx ∧ ∀ p ∈ s.idx, p.1 < s.panelW) :
    Memory.wf (s.putIdx w b0 b1 b2 b3).idx ∧ ∀ p ∈ (s.putIdx w b0 b1 b2 b3).idx, p.1 < s.panelW := by
  unfold State.putIdx
  split
  · simpa using State.putLane_keepsForm _ b3 (State.putLane_keepsForm _ b2
      (State.putLane_keepsForm _ b1 (State.putLane_keepsForm _ b0 h)))
  · exact h

/-- WR_IDX's store changes no field but `idx`. -/
theorem State.putIdx_eq (s : State) (w : BitVec 10) (b0 b1 b2 b3 : Index) :
    s.putIdx w b0 b1 b2 b3 = { s with idx := (s.putIdx w b0 b1 b2 b3).idx } := by
  unfold State.putIdx State.putLane
  repeat' split
  all_goals rfl

theorem State.putLane_putLane (s : State) (col : Nat) (b : Index) : (s.putLane col b).putLane col b = s.putLane col b := by
  unfold State.putLane
  split <;> simp [Memory.write_write]

theorem State.putLane_comm (s : State) {i j : Nat} (b c : Index) (h : i < j) :
    (s.putLane j c).putLane i b = (s.putLane i b).putLane j c := by
  unfold State.putLane
  by_cases hi : i < s.panelW <;> by_cases hj : j < s.panelW <;> simp [hi, hj, Memory.write_comm _ _ _ h]

/-- WR_IDX's store twice is WR_IDX's store once (R54). -/
theorem State.putIdx_putIdx (s : State) (w : BitVec 10) (b0 b1 b2 b3 : Index) :
    (s.putIdx w b0 b1 b2 b3).putIdx w b0 b1 b2 b3 = s.putIdx w b0 b1 b2 b3 := by
  by_cases h : w.toNat < s.idxWords
  · have hw : ∀ t : State, t.panelW = s.panelW → w.toNat < t.idxWords := by
      intro t ht
      simpa [State.idxWords, ht] using h
    have e : ∀ t : State, t.panelW = s.panelW → t.putIdx w b0 b1 b2 b3 =
        (((t.putLane (4 * w.toNat) b0).putLane (4 * w.toNat + 1) b1).putLane (4 * w.toNat + 2) b2).putLane (4 * w.toNat + 3) b3 := by
      intro t ht
      simp [State.putIdx, hw t ht]
    rw [e _ (by simp), e s rfl]
    have c01 : 4 * w.toNat < 4 * w.toNat + 1 := by omega
    have c02 : 4 * w.toNat < 4 * w.toNat + 2 := by omega
    have c03 : 4 * w.toNat < 4 * w.toNat + 3 := by omega
    have c12 : 4 * w.toNat + 1 < 4 * w.toNat + 2 := by omega
    have c13 : 4 * w.toNat + 1 < 4 * w.toNat + 3 := by omega
    have c23 : 4 * w.toNat + 2 < 4 * w.toNat + 3 := by omega
    rw [State.putLane_comm _ b0 b3 c03, State.putLane_comm _ b0 b2 c02, State.putLane_comm _ b0 b1 c01, State.putLane_putLane,
      State.putLane_comm _ b1 b3 c13, State.putLane_comm _ b1 b2 c12, State.putLane_putLane,
      State.putLane_comm _ b2 b3 c23, State.putLane_putLane, State.putLane_putLane]
  · have e : s.putIdx w b0 b1 b2 b3 = s := by simp [State.putIdx, h]
    rw [e, e]

/-! ### Moves -/

/-- What the next move can be. -/
theorem State.nextMove_cases (s : State) :
    (∃ m rest, s.inbox = m :: rest ∧ s.nextMove = some (m, { s with inbox := rest })) ∨
    (s.inbox = [] ∧ s.busy = true ∧ s.nextMove = some (.packet .engineStep, s)) ∨
    (s.inbox = [] ∧ s.busy = false ∧ s.nextMove = none) := by
  unfold State.nextMove
  cases h : s.inbox with
  | cons m rest => exact .inl ⟨m, rest, rfl, rfl⟩
  | nil => cases hb : s.busy <;> simp

end Sys2Proof.Machine
end

