-- ==== Sys2Proof/Laws/PerInstr.lean ====
section
/-! SUPPORT. Per operation: the encoder obeys the opcode map. The key of every well-formed operation's transaction selects a row of
R72's table with that operation's mnemonic. -/

namespace Sys2Proof

/-- The transaction of `i`, where it has one, selects a row of the opcode map that bears its mnemonic. -/
def Laws.KeySelectsRow.Statement (i : Instr) : Prop :=
  i.wellFormed = true → ∀ ht : HT, encode i = .transaction ht →
    ∃ r ∈ opcodeTable, htKey ht &&& r.mask = r.pattern ∧ r.mnemonic = i.mnemonic

/-- A row whose mask keeps the bits from `s` up is selected by a transaction whose key agrees with it there. -/
theorem Laws.row_of_key {i : Instr} (w : Bool) (word : BitVec 12) (d : Word) (r : TableRow) (s : Nat) (hr : r ∈ opcodeTable)
    (hmask : r.mask = BitVec.allOnes 15 <<< s) (hm : r.pattern.toNat % 2 ^ s = 0) (hi : r.mnemonic = i.mnemonic)
    (hk : (w.toNat * 2 ^ 14 + 4 * word.toNat) / 2 ^ s = r.pattern.toNat / 2 ^ s) :
    ∀ ht : HT, Packet.transaction (htMake w (wordAddr word) d) = .transaction ht →
      ∃ r ∈ opcodeTable, htKey ht &&& r.mask = r.pattern ∧ r.mnemonic = i.mnemonic := by
  intro ht h
  cases h
  refine ⟨r, hr, ?_, hi⟩
  rw [hmask, and_mask_eq_iff _ _ s hm, htKey_toNat]
  simpa [wordAddr_toNat] using hk

namespace Laws.KeySelectsRow

theorem rdCtrl : Statement .rdCtrl := fun _ =>
  row_of_key false 0 0 ⟨.RD_CTRL, 0x0000, 0x7FFC⟩ 2 (by decide) (by decide) (by decide) rfl (by decide)
theorem wrCtrl (go : Bool) : Statement (.wrCtrl go) := fun _ =>
  row_of_key true 0 _ ⟨.WR_CTRL, 0x4000, 0x7FFC⟩ 2 (by decide) (by decide) (by decide) rfl (by decide)
theorem rdStatus : Statement .rdStatus := fun _ =>
  row_of_key false 1 0 ⟨.RD_STATUS, 0x0004, 0x7FFC⟩ 2 (by decide) (by decide) (by decide) rfl (by decide)
theorem wrStatus (cw cg : Bool) : Statement (.wrStatus cw cg) := fun _ =>
  row_of_key true 1 _ ⟨.WR_STATUS, 0x4004, 0x7FFC⟩ 2 (by decide) (by decide) (by decide) rfl (by decide)
theorem rdRowY : Statement .rdRowY := fun _ =>
  row_of_key false 2 0 ⟨.RD_ROW_Y, 0x0008, 0x7FFC⟩ 2 (by decide) (by decide) (by decide) rfl (by decide)
theorem wrRowY (y : BitVec 16) : Statement (.wrRowY y) := fun _ =>
  row_of_key true 2 _ ⟨.WR_ROW_Y, 0x4008, 0x7FFC⟩ 2 (by decide) (by decide) (by decide) rfl (by decide)
theorem rdOffset : Statement .rdOffset := fun _ =>
  row_of_key false 3 0 ⟨.RD_OFFSET, 0x000C, 0x7FFC⟩ 2 (by decide) (by decide) (by decide) rfl (by decide)
theorem wrOffset (x y : BitVec 16) : Statement (.wrOffset x y) := fun _ =>
  row_of_key true 3 _ ⟨.WR_OFFSET, 0x400C, 0x7FFC⟩ 2 (by decide) (by decide) (by decide) rfl (by decide)
theorem rdWidth : Statement .rdWidth := fun _ =>
  row_of_key false 4 0 ⟨.RD_WIDTH, 0x0010, 0x7FFC⟩ 2 (by decide) (by decide) (by decide) rfl (by decide)
theorem wrWidth (w : BitVec 16) : Statement (.wrWidth w) := fun _ =>
  row_of_key true 4 _ ⟨.WR_WIDTH, 0x4010, 0x7FFC⟩ 2 (by decide) (by decide) (by decide) rfl (by decide)
theorem rdMeta : Statement .rdMeta := fun _ =>
  row_of_key false 5 0 ⟨.RD_META, 0x0014, 0x7FFC⟩ 2 (by decide) (by decide) (by decide) rfl (by decide)
theorem wrMeta (t b : Index) (h : Bool) (d : BitVec 3) (l : Bool) : Statement (.wrMeta t b h d l) := fun _ =>
  row_of_key true 5 _ ⟨.WR_META, 0x4014, 0x7FFC⟩ 2 (by decide) (by decide) (by decide) rfl (by decide)
theorem rdCaps : Statement .rdCaps := fun _ =>
  row_of_key false 6 0 ⟨.RD_CAPS, 0x0018, 0x7FFC⟩ 2 (by decide) (by decide) (by decide) rfl (by decide)
theorem wrCaps : Statement .wrCaps := fun _ =>
  row_of_key true 6 0 ⟨.WR_CAPS, 0x4018, 0x7FFC⟩ 2 (by decide) (by decide) (by decide) rfl (by decide)
theorem rdLut (n : Index) : Statement (.rdLut n) := fun _ =>
  row_of_key false (lutWord n) 0 ⟨.RD_LUT, 0x0400, 0x7C00⟩ 10 (by decide) (by decide) (by decide) rfl
    (by rw [lutWord_toNat]; have := n.isLt; simp; omega)
theorem wrLut (n : Index) (c : Colour) : Statement (.wrLut n c) := fun _ =>
  row_of_key true (lutWord n) _ ⟨.WR_LUT, 0x4400, 0x7C00⟩ 10 (by decide) (by decide) (by decide) rfl
    (by rw [lutWord_toNat]; have := n.isLt; simp; omega)
theorem rdIdx (w : BitVec 10) : Statement (.rdIdx w) := fun _ =>
  row_of_key false (idxWord w) 0 ⟨.RD_IDX, 0x1000, 0x7000⟩ 12 (by decide) (by decide) (by decide) rfl
    (by rw [idxWord_toNat]; have := w.isLt; simp; omega)
theorem wrIdx (w : BitVec 10) (b0 b1 b2 b3 : Index) : Statement (.wrIdx w b0 b1 b2 b3) := fun _ =>
  row_of_key true (idxWord w) _ ⟨.WR_IDX, 0x5000, 0x7000⟩ 12 (by decide) (by decide) (by decide) rfl
    (by rw [idxWord_toNat]; have := w.isLt; simp; omega)

/-- The rows of the unmapped word addresses, by the position of the lowest bit their mask keeps (R72). -/
theorem reserved_ranges {a : BitVec 12} (h : unmappedWord a = true) :
    a.toNat = 7 ∨ (8 ≤ a.toNat ∧ a.toNat < 16) ∨ (16 ≤ a.toNat ∧ a.toNat < 32) ∨ (32 ≤ a.toNat ∧ a.toNat < 64) ∨
    (64 ≤ a.toNat ∧ a.toNat < 128) ∨ (128 ≤ a.toNat ∧ a.toNat < 256) ∨ (512 ≤ a.toNat ∧ a.toNat < 1024) ∨
    (2048 ≤ a.toNat ∧ a.toNat < 4096) := by
  have ha := a.isLt
  simp only [unmappedWord, Bool.or_eq_true, decide_eq_true_eq] at h
  omega

theorem reservedRd (a : BitVec 12) : Statement (.reservedRd a) := by
  intro h
  rcases reserved_ranges h with h | h | h | h | h | h | h | h
  · exact row_of_key false a 0 ⟨.RESERVED_RD, 0x001C, 0x7FFC⟩ 2 (by decide) (by decide) (by decide) rfl (by simp; omega)
  · exact row_of_key false a 0 ⟨.RESERVED_RD, 0x0020, 0x7FE0⟩ 5 (by decide) (by decide) (by decide) rfl (by simp; omega)
  · exact row_of_key false a 0 ⟨.RESERVED_RD, 0x0040, 0x7FC0⟩ 6 (by decide) (by decide) (by decide) rfl (by simp; omega)
  · exact row_of_key false a 0 ⟨.RESERVED_RD, 0x0080, 0x7F80⟩ 7 (by decide) (by decide) (by decide) rfl (by simp; omega)
  · exact row_of_key false a 0 ⟨.RESERVED_RD, 0x0100, 0x7F00⟩ 8 (by decide) (by decide) (by decide) rfl (by simp; omega)
  · exact row_of_key false a 0 ⟨.RESERVED_RD, 0x0200, 0x7E00⟩ 9 (by decide) (by decide) (by decide) rfl (by simp; omega)
  · exact row_of_key false a 0 ⟨.RESERVED_RD, 0x0800, 0x7800⟩ 11 (by decide) (by decide) (by decide) rfl (by simp; omega)
  · exact row_of_key false a 0 ⟨.RESERVED_RD, 0x2000, 0x6000⟩ 13 (by decide) (by decide) (by decide) rfl (by simp; omega)

theorem reservedWr (a : BitVec 12) : Statement (.reservedWr a) := by
  intro h
  rcases reserved_ranges h with h | h | h | h | h | h | h | h
  · exact row_of_key true a 0 ⟨.RESERVED_WR, 0x401C, 0x7FFC⟩ 2 (by decide) (by decide) (by decide) rfl (by simp; omega)
  · exact row_of_key true a 0 ⟨.RESERVED_WR, 0x4020, 0x7FE0⟩ 5 (by decide) (by decide) (by decide) rfl (by simp; omega)
  · exact row_of_key true a 0 ⟨.RESERVED_WR, 0x4040, 0x7FC0⟩ 6 (by decide) (by decide) (by decide) rfl (by simp; omega)
  · exact row_of_key true a 0 ⟨.RESERVED_WR, 0x4080, 0x7F80⟩ 7 (by decide) (by decide) (by decide) rfl (by simp; omega)
  · exact row_of_key true a 0 ⟨.RESERVED_WR, 0x4100, 0x7F00⟩ 8 (by decide) (by decide) (by decide) rfl (by simp; omega)
  · exact row_of_key true a 0 ⟨.RESERVED_WR, 0x4200, 0x7E00⟩ 9 (by decide) (by decide) (by decide) rfl (by simp; omega)
  · exact row_of_key true a 0 ⟨.RESERVED_WR, 0x4800, 0x7800⟩ 11 (by decide) (by decide) (by decide) rfl (by simp; omega)
  · exact row_of_key true a 0 ⟨.RESERVED_WR, 0x6000, 0x6000⟩ 13 (by decide) (by decide) (by decide) rfl (by simp; omega)

theorem row : Statement .row := by
  intro _ ht h
  cases h
theorem pixelWrite (x y : Coord) (c : Colour) : Statement (.pixelWrite x y c) := by
  intro _ ht h
  cases h
theorem present : Statement .present := by
  intro _ ht h
  cases h

end Laws.KeySelectsRow

end Sys2Proof
end

