-- ==== Sys2Proof/Laws/Row.lean ====
section
/-! SUPPORT. What the ROW operation can do: each column, the loop over columns, and the whole step. -/

namespace Sys2Proof.Machine

/-! ### One column -/

/-- A ready column issues its events: none when transparent or dropped, one PIXEL_WRITE when written (R158). -/
theorem State.columnEvents_ready {s : State} {i : Nat} (h : s.columnReady i = true) :
    ∃ n, s.idxAt i = some n ∧
      ((s.classify i n = .transparent ∧ s.columnEvents i = .ok []) ∨
       (s.classify i n = .dropped ∧ s.columnEvents i = .ok []) ∨
       ∃ m c, s.classify i n = .written m ∧ s.lutAt m = some c ∧
         s.columnEvents i = .ok [.pixelWrite (BitVec.ofInt 16 (s.sinkX i)) (BitVec.ofInt 16 s.sinkY) c]) := by
  unfold State.columnReady at h
  cases hi : s.idxAt i with
  | none => simp [hi] at h
  | some n =>
    refine ⟨n, rfl, ?_⟩
    rw [hi] at h
    cases hc : s.classify i n with
    | transparent => exact .inl ⟨rfl, by simp [State.columnEvents, State.idxRead, hi, hc]⟩
    | dropped => exact .inr (.inl ⟨rfl, by simp [State.columnEvents, State.idxRead, hi, hc]⟩)
    | written m =>
      simp only [hc, State.lutWr, Option.isSome_iff_exists] at h
      obtain ⟨c, hl⟩ := h
      exact .inr (.inr ⟨m, c, rfl, hl, by simp [State.columnEvents, State.idxRead, State.lookup, hi, hc, hl]⟩)

/-- A column that is not ready faults: on its index, or on the LUT entry a written pixel uses (R156). -/
theorem State.columnEvents_unready {s : State} {i : Nat} (h : s.columnReady i = false) :
    (s.idxAt i = none ∧ s.columnEvents i = .error (.unwrittenIDX i)) ∨
    ∃ n m, s.idxAt i = some n ∧ s.classify i n = .written m ∧ s.lutAt m = none ∧
      s.columnEvents i = .error (.unwrittenLUT m) := by
  unfold State.columnReady at h
  cases hi : s.idxAt i with
  | none => exact .inl ⟨rfl, by simp [State.columnEvents, State.idxRead, hi]⟩
  | some n =>
    rw [hi] at h
    cases hc : s.classify i n with
    | transparent => simp [hc] at h
    | dropped => simp [hc] at h
    | written m =>
      simp only [hc, State.lutWr, Option.isSome_eq_false_iff, Option.isNone_iff_eq_none] at h
      exact .inr ⟨n, m, rfl, hc, h, by simp [State.columnEvents, State.idxRead, State.lookup, hi, hc, h]⟩

theorem State.columnEvents_ok_iff {s : State} {i : Nat} : (∃ es, s.columnEvents i = .ok es) ↔ s.columnReady i = true := by
  constructor
  · rintro ⟨es, he⟩
    cases hr : s.columnReady i with
    | true => rfl
    | false => rcases State.columnEvents_unready hr with ⟨-, h⟩ | ⟨n, m, -, -, -, h⟩ <;> rw [h] at he <;> cases he
  · intro h
    obtain ⟨n, -, ⟨-, h⟩ | ⟨-, h⟩ | ⟨m, c, -, -, h⟩⟩ := State.columnEvents_ready h <;> exact ⟨_, h⟩

/-! ### The loop -/

/-- The loop completes with the columns' events in order exactly when every column is ready. -/
theorem State.columnsEvents_ok {s : State} {f : Nat → List SinkEvent} :
    ∀ {is : List Nat}, (∀ i ∈ is, s.columnEvents i = .ok (f i)) → s.columnsEvents is = .ok (is.flatMap f)
  | [], _ => rfl
  | i :: rest, h => by
    have hr := State.columnsEvents_ok (s := s) (f := f) (is := rest) (fun j hj => h j (List.mem_cons_of_mem _ hj))
    simp [State.columnsEvents, h i (List.mem_cons_self ..), hr]

/-- A completed loop had every column ready, and each column's events in order. -/
theorem State.columnsEvents_ok_inv {s : State} :
    ∀ {is : List Nat} {es : List SinkEvent}, s.columnsEvents is = .ok es →
      ∃ f : Nat → List SinkEvent, (∀ i ∈ is, s.columnEvents i = .ok (f i)) ∧ es = is.flatMap f := by
  intro is es h
  let f : Nat → List SinkEvent := fun i => match s.columnEvents i with | .ok es => es | .error _ => []
  have all : ∀ {is : List Nat} {es : List SinkEvent}, s.columnsEvents is = .ok es → ∀ i ∈ is, s.columnEvents i = .ok (f i) := by
    intro is
    induction is with
    | nil => intro _ _ i hi; cases hi
    | cons j rest ih =>
      intro es h i hi
      simp only [State.columnsEvents] at h
      cases hj : s.columnEvents j with
      | error e => simp [hj] at h
      | ok ej =>
        cases hrest : s.columnsEvents rest with
        | error e => simp [hj, hrest] at h
        | ok er =>
          rcases List.mem_cons.mp hi with rfl | hi
          · simp [f, hj]
          · exact ih hrest i hi
  refine ⟨f, all h, ?_⟩
  have := State.columnsEvents_ok (all h)
  rw [h] at this
  exact Except.ok.inj this

/-- A faulting loop faults at its first column that is not ready, with that column's fault. -/
theorem State.columnsEvents_error_inv {s : State} {e : Fault} :
    ∀ {is : List Nat}, s.columnsEvents is = .error e →
      ∃ pre i post, is = pre ++ i :: post ∧ (∀ j ∈ pre, s.columnReady j = true) ∧ s.columnEvents i = .error e
  | [], h => by cases h
  | j :: rest, h => by
    simp only [State.columnsEvents] at h
    cases hj : s.columnEvents j with
    | error e' =>
      simp only [hj] at h
      cases h
      exact ⟨[], j, rest, rfl, by simp, hj⟩
    | ok ej =>
      simp only [hj] at h
      cases hrest : s.columnsEvents rest with
      | ok er => simp [hrest] at h
      | error e' =>
        simp only [hrest] at h
        cases h
        obtain ⟨pre, i, post, rfl, hpre, hi⟩ := State.columnsEvents_error_inv hrest
        refine ⟨j :: pre, i, post, rfl, fun k hk => ?_, hi⟩
        rcases List.mem_cons.mp hk with rfl | hk
        · exact State.columnEvents_ok_iff.mp ⟨_, hj⟩
        · exact hpre k hk

/-- The loop only depends on what its columns do. -/
theorem State.columnsEvents_congr {s t : State} :
    ∀ {is : List Nat}, (∀ i ∈ is, s.columnEvents i = t.columnEvents i) → s.columnsEvents is = t.columnsEvents is
  | [], _ => rfl
  | i :: rest, h => by
    simp only [State.columnsEvents, h i (List.mem_cons_self ..),
      State.columnsEvents_congr (is := rest) (fun j hj => h j (List.mem_cons_of_mem _ hj))]

/-! ### The whole step -/

/-- Everything a ROW step can do when it completes. -/
theorem execRow_next {s t : State} (h : execRow s = .next t) :
    (s.busy = false ∧ t = s) ∨
    (s.busy = true ∧ ∃ es, s.rowPixels = .ok es ∧ t = (s.issue (es ++ s.presentEvents)).setBusy false) := by
  unfold execRow at h
  cases hb : s.busy with
  | false => simp [hb] at h; exact .inl ⟨rfl, h.symm⟩
  | true =>
    cases hp : s.rowPixels with
    | error e => simp [hb, hp] at h
    | ok es => simp [hb, hp] at h; exact .inr ⟨rfl, es, rfl, h.symm⟩

/-- A ROW step faults only with a row pending, with the loop's fault. -/
theorem execRow_fault {s : State} {f : Fault} (h : execRow s = .fault f) : s.busy = true ∧ s.rowPixels = .error f := by
  unfold execRow at h
  cases hb : s.busy with
  | false => simp [hb] at h
  | true =>
    cases hp : s.rowPixels with
    | error e => simp [hb, hp] at h; exact ⟨rfl, by rw [h]⟩
    | ok es => simp [hb, hp] at h

theorem execRow_pending {s : State} (hb : s.busy = true) {es : List SinkEvent} (h : s.rowPixels = .ok es) :
    execRow s = .next ((s.issue (es ++ s.presentEvents)).setBusy false) := by simp [execRow, hb, h]

/-- A ready row's loop completes. -/
theorem State.rowPixels_ready {s : State} (h : s.rowReady = true) : ∃ es, s.rowPixels = .ok es := by
  cases hp : s.rowPixels with
  | ok es => exact ⟨es, rfl⟩
  | error e =>
    obtain ⟨pre, i, post, his, -, hi⟩ := State.columnsEvents_error_inv hp
    have hmem : i ∈ List.range s.wEff := by rw [his]; simp
    obtain ⟨es, hes⟩ := State.columnEvents_ok_iff.mpr (List.all_eq_true.mp h i hmem)
    rw [hi] at hes
    cases hes

/-- The PIXEL_WRITEs of a completed row, column by column, each as R158 classes it. -/
theorem State.rowPixels_ok_inv {s : State} {es : List SinkEvent} (h : s.rowPixels = .ok es) :
    s.rowReady = true ∧ ∃ f : Nat → List SinkEvent, (∀ i < s.wEff, s.columnEvents i = .ok (f i)) ∧
      es = (List.range s.wEff).flatMap f := by
  obtain ⟨f, hf, he⟩ := State.columnsEvents_ok_inv h
  have hf' : ∀ i < s.wEff, s.columnEvents i = .ok (f i) := fun i hi => hf i (List.mem_range.mpr hi)
  refine ⟨List.all_eq_true.mpr (fun i hi => ?_), f, hf', he⟩
  exact State.columnEvents_ok_iff.mp ⟨_, hf i hi⟩

end Sys2Proof.Machine
end

