-- ==== Sys2Proof/Laws/Step.lean ====
section
/-! SUPPORT. What a step can do, said once. -/

namespace Sys2Proof.Machine

/-- Everything a step can do when it answers a next state. -/
theorem step_next {s t : State} (h : step s = .next t) :
    (∃ ht rest, s.inbox = .packet (.transaction ht) :: rest ∧ exec (decodeHT ht) { s with inbox := rest } = .next t) ∨
    (∃ rest, s.inbox = .packet .engineStep :: rest ∧ execRow { s with inbox := rest } = .next t) ∨
    (∃ se i rest, s.inbox = .packet (.sinkEvent se) :: rest ∧ decodeSE se = .ok i ∧ exec i { s with inbox := rest } = .next t) ∨
    (∃ rest, s.inbox = .reset :: rest ∧ t = State.resetStep { s with inbox := rest }) ∨
    (s.inbox = [] ∧ s.busy = true ∧ execRow s = .next t) ∨
    (s.inbox = [] ∧ s.busy = false ∧ t = s) := by
  unfold step at h
  rcases s.nextMove_cases with ⟨m, rest, hi, hn⟩ | ⟨hi, hb, hn⟩ | ⟨hi, hb, hn⟩
  · rw [hn] at h
    cases m with
    | reset => exact .inr (.inr (.inr (.inl ⟨rest, hi, by simpa using h.symm⟩)))
    | packet p =>
      cases p with
      | transaction ht => exact .inl ⟨ht, rest, hi, h⟩
      | engineStep => exact .inr (.inl ⟨rest, hi, h⟩)
      | sinkEvent se =>
        simp only [decode] at h
        cases hd : decodeSE se with
        | error e => simp [hd] at h
        | ok i => exact .inr (.inr (.inl ⟨se, i, rest, hi, hd, by simpa [hd] using h⟩))
  · rw [hn] at h
    exact .inr (.inr (.inr (.inr (.inl ⟨hi, hb, h⟩))))
  · rw [hn] at h
    exact .inr (.inr (.inr (.inr (.inr ⟨hi, hb, by simpa using h.symm⟩))))

/-- A step with a transaction next is exec of what it decodes to. -/
theorem step_transaction {s : State} {ht : HT} {rest : List Move} (h : s.inbox = .packet (.transaction ht) :: rest) :
    step s = exec (decodeHT ht) { s with inbox := rest } := by
  simp [step, State.nextMove, h, decode]

/-- A sink event word decodes to one of the two events. -/
theorem decodeSE_ok {se : SE} {i : Instr} (h : decodeSE se = .ok i) : i = .present ∨ ∃ x y c, i = .pixelWrite x y c := by
  unfold decodeSE at h
  repeat' split at h
  all_goals cases h
  · exact .inl rfl
  · exact .inr ⟨_, _, _, rfl⟩

end Sys2Proof.Machine
end

