-- ==== Sys2Proof/Tests/Slice0.lean ====
section
/-! SUPPORT. The model's own tests: the well-formedness smoke test, words of the spec's encodings, vectors of
spec/95_test_vectors.md, and a witness for every statement that has hypotheses. -/

namespace Sys2Proof.Tests

open Sys2Proof Sys2Proof.Machine

/-- What a test looks at in the next state; `none` when the step stops. -/
def after {β : Type} (f : State → β) : Host.Outcome State Fault Refusal → Option β
  | .next t => some (f t)
  | .fault _ => none
  | .refused _ => none

/-- The fault a step stops with. -/
def faultOf : Host.Outcome State Fault Refusal → Option Fault
  | .fault f => some f
  | .next _ => none
  | .refused _ => none

/-- A write and a read of it. -/
def both (i j : Instr) (s : State) : Host.Outcome State Fault Refusal :=
  match exec i s with
  | .next t => exec j t
  | .fault f => .fault f
  | .refused r => .refused r

/-- The common instance of spec/95_test_vectors.md: PANEL_W = 16, PANEL_H = 8, right after reset. -/
def common : State := { State.reset with panelW := 16, panelH := 8 }

/-- The common instance with an index row, some LUT entries and a row pending. -/
def rowState (ix : List Index) (lut : List (Nat × Colour)) (w : BitVec 16) : State :=
  { common with busy := true, idx := (List.range ix.length).zip ix, lut := lut, width := w }

/-- LUT entries of the test palette: LUT[n] = 0xC000 + n. -/
def tp (ns : List Nat) : List (Nat × Colour) := ns.map (fun n => (n, BitVec.ofNat 16 (0xC000 + n)))

/-- A PIXEL_WRITE. -/
def pw (x y : Coord) (c : Colour) : SinkEvent := .pixelWrite x y c

/-! ### Well-formedness, one ill-formed term for each check -/

theorem test_wf_reservedRd_mapped : (Instr.reservedRd 0).wellFormed = false := by decide
theorem test_wf_reservedRd_lut : (Instr.reservedRd 0x1FF).wellFormed = false := by decide
theorem test_wf_reservedWr_idx : (Instr.reservedWr 0x400).wellFormed = false := by decide
theorem test_wf_reservedWr_caps : (Instr.reservedWr 6).wellFormed = false := by decide
theorem test_wf_reserved_edges :
    [7, 255, 512, 1023, 2048, 4095].map (fun a => (Instr.reservedRd (BitVec.ofNat 12 a)).wellFormed) =
      [true, true, true, true, true, true] := by decide

/-! ### Decoding: words written out bit by bit from R70, R72, R73, R74 -/

/-- R72, the eighteen mapped rows, each at its match key, D = 0. -/
theorem test_decode_reads :
    [0x000000000000, 0x000400000000, 0x000800000000, 0x000C00000000, 0x001000000000, 0x001400000000, 0x001800000000,
     0x040000000000, 0x100000000000].map decodeHT =
      [.rdCtrl, .rdStatus, .rdRowY, .rdOffset, .rdWidth, .rdMeta, .rdCaps, .rdLut 0, .rdIdx 0] := by decide
/-- R72 and R73: V41, STATUS bits 1 and 2, P2 lines 3 and 12, V43, V44. -/
theorem test_decode_writes :
    [0x400000000001, 0x400400000006, 0x400800000001, 0x400C00030006, 0x401000000004, 0x401400150009, 0x401800000000,
     0x47FC00001234, 0x5FFC04030201].map decodeHT =
      [.wrCtrl true, .wrStatus true true, .wrRowY 1, .wrOffset 6 3, .wrWidth 4, .wrMeta 9 0 true 2 true, .wrCaps,
       .wrLut 255 0x1234, .wrIdx 1023 1 2 3 4] := by decide
/-- R72: a key at the low end of each of the eight RESERVED_RD rows. -/
theorem test_decode_reservedRd :
    [0x001C00000000, 0x002000000000, 0x004000000000, 0x008000000000, 0x010000000000, 0x020000000000, 0x080000000000,
     0x200000000000].map decodeHT =
      [.reservedRd 7, .reservedRd 8, .reservedRd 16, .reservedRd 32, .reservedRd 64, .reservedRd 128, .reservedRd 512,
       .reservedRd 2048] := by decide
/-- R72: a key at the high end of each of the eight RESERVED_WR rows. -/
theorem test_decode_reservedWr :
    [0x401F00000000, 0x403F00000000, 0x407F00000000, 0x40FF00000000, 0x41FF00000000, 0x43FF00000000, 0x4FFF00000000,
     0x7FFFFFFFFFFF].map decodeHT =
      [.reservedWr 7, .reservedWr 15, .reservedWr 31, .reservedWr 63, .reservedWr 127, .reservedWr 255, .reservedWr 1023,
       .reservedWr 4095] := by decide
/-- V31: 0x0013 and 0x0011 both decode as WIDTH; R52: a write at 0x0406 writes LUT[1]. -/
theorem test_decode_low_bits :
    [htMake true 0x0013 7, htMake false 0x0011 0, htMake true 0x0406 5].map decodeHT = [.wrWidth 7, .rdWidth, .wrLut 1 5] := by
  decide
/-- V38, V39, V40. -/
theorem test_decode_sink :
    [0x000070000001F, 0x0000F0007C00F, 0x1000000000000].map (fun w => (decodeSE w).toOption) =
      [some (.pixelWrite 7 0 0x001F), some (.pixelWrite 15 7 0xC00F), some .present] := by decide
/-- R76: TYPE = 1 with one payload bit has no operation. -/
theorem test_decode_sink_refused : (decodeSE 0x1000000000001).toOption = none := by decide
/-- R150: format ENGINE has no bits. -/
theorem test_decode_row : (decode .engineStep).toOption = some .row := by decide

/-- The opcode table's numbering: the key alone, the whole transaction, the sink event word, no bits. -/
theorem test_table_words :
    [decodeTableWord 15 0x4000, decodeTableWord 48 0x47FC00001234, decodeTableWord 15 0x7FFF, decodeTableWord 56 0x1000000000000,
     decodeTableWord 56 0, decodeTableWord 0 0, decodeTableWord 56 0x1000000000001] =
      [some (.wrCtrl false), some (.wrLut 255 0x1234), some (.reservedWr 4095), some .present, some (.pixelWrite 0 0 0),
       some .row, none] := by decide

/-! ### Host port, spec/95_test_vectors.md 2.4 -/

/-- V26. -/
theorem test_v26_rdCtrl : after State.responses (exec .rdCtrl common) = some [0] := by decide
theorem test_v26_rdCaps : after State.responses (exec .rdCaps common) = some [0x00080010] := by decide
/-- R104: GOERR, WERR and BUSY are bits 2, 1 and 0. -/
theorem test_rdStatus : after State.responses (exec .rdStatus { common with goerr := true, busy := true }) = some [5] := by decide
/-- V27. -/
theorem test_v27_meta :
    after State.responses (both (decodeHT (Script.wr Script.META 0xFFFFFFFF)) .rdMeta common) = some [0x001FFFFF] := by decide
/-- R73: DISPOSAL is D[19:17], and BG_IDX is not TRANSP_IDX. -/
theorem test_wrMeta_fields :
    after (fun t => (t.transpIdx, t.bgIdx, t.hasTransp, t.disposal, t.lastRow))
      (exec (decodeHT (Script.wr Script.META 0x00040903)) common) = some (3, 9, false, 2, false) := by decide
/-- V28. -/
theorem test_v28_rowY :
    after State.responses (both (decodeHT (Script.wr Script.ROW_Y 0x12345678)) .rdRowY common) = some [0x00005678] := by decide
/-- V29. -/
theorem test_v29_offset :
    after (fun t => (t.responses, t.sinkX 0, t.sinkY)) (both (decodeHT (Script.wr Script.OFFSET 0x8000FFFF)) .rdOffset common) =
      some ([0x8000FFFF], -1, -32768) := by decide
/-- V30. -/
theorem test_v30_width :
    after (fun t => (t.responses, t.wEff)) (both (decodeHT (Script.wr Script.WIDTH 0xFFFF0014)) .rdWidth common) =
      some ([0x14], 16) := by decide
/-- V32: a second GO sets GOERR. -/
theorem test_v32_second_go : after State.statusWord (common.afterHost [Script.go, Script.go]) = some 5 := by decide
/-- V35. -/
theorem test_v35_ctrl_reserved : after State.statusWord (exec (decodeHT (Script.wr Script.CTRL 0xFFFFFFFE)) common) = some 0 := by
  decide
/-- V32's clear, and V34: BUSY cannot be cleared. -/
theorem test_v32_clear :
    after State.statusWord (exec (decodeHT (Script.wr Script.STATUS 4)) { common with goerr := true, werr := true }) = some 2 := by
  decide
theorem test_v34_busy_readonly :
    after State.statusWord (exec (decodeHT (Script.wr Script.STATUS 1)) { common with busy := true }) = some 1 := by decide
/-- V36: WR_CAPS and RESERVED_WR set no flag while BUSY. -/
theorem test_v36_wrCaps :
    after State.statusWord (exec (decodeHT (Script.wr Script.CAPS 0)) { common with busy := true }) = some 1 := by decide
theorem test_v36_reservedWr :
    after State.statusWord (exec (decodeHT (Script.wr 0x2000 0xFFFFFFFF)) { common with busy := true }) = some 1 := by decide
/-- V37. -/
theorem test_v37_reservedRd : after State.responses (exec (decodeHT (Script.rd 0x3FFC)) common) = some [0] := by decide

/-! ### Palette LUT and index buffer, spec/95_test_vectors.md 2.2 and 2.3 -/

/-- V23. -/
theorem test_v23_lut :
    after State.responses (both (decodeHT (Script.wr (Script.LUT 255) 0xFFFF1234)) (.rdLut 255) common) = some [0x1234] := by decide
/-- V25. -/
theorem test_v25_lut_busy :
    after (fun t => (t.statusWord, t.responses))
      (both (.wrLut 1 0x1234) (.rdLut 1) { common with busy := true, lut := [(1, 0xC001)] }) = some (3, [0xC001]) := by decide
/-- V24: from reset the entry is a free 16-bit value, whatever it is. -/
theorem test_v24_lut_unwritten :
    after State.responses (exec (.rdLut 7) common) = some [(Config.unwrittenLut 0 7).setWidth 32] := by rfl
/-- V20 and R50: the lowest column is the least significant byte. -/
theorem test_v20_idx :
    after (fun t => [t.idxAt 0, t.idxAt 1, t.idxAt 2, t.idxAt 3]) (exec (decodeHT (Script.wr (Script.IDX 0) 0x04030201)) common) =
      some [some 1, some 2, some 3, some 4] := by decide
/-- V21. -/
theorem test_v21_rdIdx :
    after State.responses (both (decodeHT (Script.wr (Script.IDX 0) 0x04030201)) (.rdIdx 0) common) = some [0] := by decide
/-- V22c: PANEL_W = 10, lanes 2 and 3 are past the panel. -/
theorem test_v22c_idx_partial :
    after State.idx (exec (decodeHT (Script.wr (Script.IDX 2) 0x44332211)) { common with panelW := 10 }) =
      some [(8, 0x11), (9, 0x22)] := by decide

/-! ### Row compositor, spec/95_test_vectors.md 2.1 -/

/-- V1. -/
theorem test_v1_row :
    after State.events (exec .row { rowState [1, 1, 2, 2, 0, 0, 0, 3, 3, 3] [(1, 0xF800), (2, 0x07E0), (3, 0x001F)] 10 with
      hasTransp := true }) =
      some [pw 0 0 0xF800, pw 1 0 0xF800, pw 2 0 0x07E0, pw 3 0 0x07E0, pw 7 0 0x001F, pw 8 0 0x001F, pw 9 0 0x001F] := by decide
/-- V7. -/
theorem test_v7_restore :
    after State.events (exec .row { rowState [1, 2, 1, 3, 2] (tp [1, 2, 3, 7]) 5 with
      hasTransp := true, transpIdx := 3, bgIdx := 7, disposal := 2 }) =
      some [pw 0 0 0xC001, pw 1 0 0xC002, pw 2 0 0xC001, pw 3 0 0xC007, pw 4 0 0xC002] := by decide

/-! ### Sink events, the step and the reset -/

theorem test_pixelWrite : after State.events (exec (.pixelWrite 15 7 0xC00F) common) = some [pw 15 7 0xC00F] := by decide
theorem test_pixelWrite_off : after State.events (exec (.pixelWrite 16 7 0xC00F) common) = some [] := by decide
theorem test_present : after State.events (exec .present common) = some [.present] := by decide
/-- P4, outcome B: the reset discards the pending row and its written entries. -/
theorem test_p4_reset :
    after (fun t => (t.busy, t.width, t.events, t.lut.length, t.idx.length, t.panelW))
      (step { rowState [1, 1, 1, 1] (tp [1]) 4 with inbox := [.reset] }) = some (false, 0, [], 0, 0, 16) := by decide

/-! ### Witnesses: states and operands that meet the hypotheses of the statements -/

/-- V14's row, ready to be composited: both columns dropped, LAST_ROW set. -/
def dropped : State := { rowState [1, 2] (tp [1, 2]) 2 with rowY := 8, lastRow := true }

/-- V12's row: columns 0 and 1 dropped, 2 to 4 written. -/
def clipped : State := { rowState [1, 2, 3, 4, 5] (tp [3, 4, 5]) 5 with xOff := 0xFFFE }

/-- V17's row: three transparent runs around two opaque ones. -/
def runny : State := { rowState [9, 5, 9, 9, 6, 9] (tp [5, 6]) 6 with hasTransp := true, transpIdx := 9 }

/-- V4's row: every column transparent. -/
def clear : State := { rowState [5, 5, 5, 5] [] 4 with hasTransp := true, transpIdx := 5 }

theorem witness_DecodeEncodeRoundTrip : (Instr.reservedWr 7).wellFormed = true ∧ (Instr.reservedRd 4095).wellFormed = true := by decide
theorem witness_ReadsReturningZero :
    htKey 0x000300000000 &&& 0x7FFC = 0x0000 ∧ htKey 0x1FFF00000000 &&& 0x7000 = 0x1000 ∧
    ((⟨.RESERVED_RD, 0x2000, 0x6000⟩ : TableRow) ∈ opcodeTable ∧ htKey 0x3FFF00000000 &&& 0x6000 = 0x2000) := by decide
theorem witness_ReadStatusWord : htKey 0x000700000000 &&& 0x7FFC = 0x0004 := by decide
theorem witness_ReadRowRegisters : htKey 0x000B00000000 &&& 0x7FFC = 0x0008 ∧ htKey 0x000F00000000 &&& 0x7FFC = 0x000C ∧
    htKey 0x001300000000 &&& 0x7FFC = 0x0010 := by decide
theorem witness_ReadMetaWord : htKey 0x001700000000 &&& 0x7FFC = 0x0014 := by decide
theorem witness_ReadCapsWord : htKey 0x001B00000000 &&& 0x7FFC = 0x0018 := by decide
theorem witness_IgnoredWrites : htKey 0x401B00000000 &&& 0x7FFC = 0x4018 ∧
    ((⟨.RESERVED_WR, 0x401C, 0x7FFC⟩ : TableRow) ∈ opcodeTable ∧ htKey 0x401F00000000 &&& 0x7FFC = 0x401C) := by decide
theorem witness_LowAddressBitsIgnored : (0x0013 : Addr).toNat / 4 = (0x0010 : Addr).toNat / 4 := by decide
theorem witness_OperandsTakenFromTransaction :
    (0x0003 : Addr).toNat / 4 = 0 ∧ (0x0004 : Addr).toNat / 4 = 1 ∧ (0x000B : Addr).toNat / 4 = 2 ∧ (0x000C : Addr).toNat / 4 = 3 ∧
    (0x0013 : Addr).toNat / 4 = 4 ∧ (0x0014 : Addr).toNat / 4 = 5 ∧
    (0x0400 ≤ (0x0400 : Addr).toNat ∧ (0x07FF : Addr).toNat < 0x0800) ∧
    (0x1000 ≤ (0x1000 : Addr).toNat ∧ (0x1FFF : Addr).toNat < 0x2000) := by decide
theorem witness_SinkEventWordsDecode :
    (0x0FFFFFFFFFFFF : SE).getLsbD 48 = false ∧
    ((0x1000000000000 : SE).getLsbD 48 = true ∧ (0x1000000000000 : SE).extractLsb' 0 48 = 0) ∧
    ((0x1800000000000 : SE).getLsbD 48 = true ∧ (0x1800000000000 : SE).extractLsb' 0 48 ≠ 0) := by decide
theorem witness_PseudoOperationsExpand :
    Script.rd Script.CAPS ∈ Script.poll Script.CAPS 1 ∧ Script.rd Script.STATUS ∈ Script.waitIdle 0 := by decide
theorem witness_StepRunsDecodedPacket :
    ({ common with inbox := [.packet (.transaction Script.go)] } : State).inbox = .packet (.transaction Script.go) :: [] ∧
    (decode (.transaction Script.go)).toOption = some (.wrCtrl true) := by decide
theorem witness_StepWithoutTransaction :
    (common.inbox = [] ∧ common.busy = false) ∧ (dropped.inbox = [] ∧ dropped.busy = true) ∧
    ({ common with inbox := [.packet (.sinkEvent 0x1000000000001)] } : State).inbox =
      .packet (.sinkEvent 0x1000000000001) :: [] := by decide
theorem witness_TableWordRunsNext : decodeTableWord 15 0x5000 = some (.wrIdx 0 0 0 0 0) ∧ decodeTableWord 0 0 = some .row := by decide
theorem witness_ReadLutEntry_key : htKey 0x07FF00000000 &&& 0x7C00 = 0x0400 := by decide
theorem witness_ReadLutEntry : ({ common with lut := tp [255] } : State).lutAt 255 = some 0xC0FF := by decide
theorem witness_WriteStatusClears : htKey 0x400700000006 &&& 0x7FFC = 0x4004 := by decide
theorem witness_WriteCtrlStartsRow : htKey 0x400300000001 &&& 0x7FFC = 0x4000 ∧ common.busy = false ∧ dropped.busy = true := by decide
theorem witness_WriteRowRegisters_keys : htKey 0x400B00000001 &&& 0x7FFC = 0x4008 ∧ htKey 0x400F00030006 &&& 0x7FFC = 0x400C ∧
    htKey 0x401300000004 &&& 0x7FFC = 0x4010 ∧ htKey 0x401700150009 &&& 0x7FFC = 0x4014 := by decide
theorem witness_WriteRowRegisters : common.busy = false ∧ clear.busy = true := by decide
/-- V33: a META write during the BUSY window sets WERR and is discarded. -/
theorem witness_RowWriteGuard_v33 :
    after (fun t => (t.statusWord, t.metaWord)) (common.afterHost [Script.go, Script.wr Script.META 0x00100000]) = some (3, 0) := by
  decide
theorem witness_RowWriteGuard : (Instr.wrIdx 4 0 0 0 0).isRowWrite = true ∧ common.busy = false ∧ dropped.busy = true := by decide
theorem witness_WriteLutEntry : htKey 0x47FC00001234 &&& 0x7C00 = 0x4400 ∧ common.busy = false ∧ (254 : Index) ≠ 255 ∧ dropped.busy = true := by decide
theorem witness_WriteIdxLanes_key : htKey 0x5FFC04030201 &&& 0x7000 = 0x5000 := by decide
/-- Word 2 of a panel 10 wide: lane 1 is the last column, lanes 2 and 3 are past it, and word 3 is not backed. -/
theorem witness_WriteIdxLanes :
    Instr.wrIdx 2 0x11 0x22 0x33 0x44 = .wrIdx 2 ((0x44332211 : Word).extractLsb' 0 8) ((0x44332211 : Word).extractLsb' 8 8)
      ((0x44332211 : Word).extractLsb' 16 8) ((0x44332211 : Word).extractLsb' 24 8) ∧
    (1 < 4 ∧ 4 * (2 : BitVec 10).toNat + 1 < 10) ∧ 10 ≤ 4 * (2 : BitVec 10).toNat + 2 ∧ 7 / 4 ≠ (2 : BitVec 10).toNat ∧
    (10 + 3) / 4 ≤ (3 : BitVec 10).toNat := by decide
theorem witness_HostAccessSideEffects :
    (Instr.rdIdx 0).isRead = true ∧ (Instr.wrLut 0 0).isRowWrite = true ∧ common.busy = false ∧ dropped.busy = true := by decide
theorem witness_ReadsSameDuringBusy : Instr.rdStatus.isRead = true ∧ Instr.rdMeta.isRead = true ∧ Instr.rdMeta ≠ .rdStatus := by decide
theorem witness_RegistersReadBack :
    common.busy = false ∧ (0x0017 : Addr).toNat / 4 = 5 ∧ (0x0014 : Addr).toNat / 4 = 5 ∧
    (0x0400 ≤ (0x07FF : Addr).toNat ∧ (0x07FF : Addr).toNat < 0x0800 ∧ (0x07FC : Addr).toNat / 4 = (0x07FF : Addr).toNat / 4) := by
  decide
theorem witness_RowIssuesItsPixels : clipped.busy = true ∧ clipped.rowReady = true := by decide
/-- V3's row: TRANSP_IDX is none of its indices. -/
theorem witness_RowIssuesItsPixels_opaque :
    ∀ i < 4, ({ rowState [1, 2, 3, 4] (tp [1, 2, 3, 4]) 4 with hasTransp := true, transpIdx := 0xAA } : State).idxAt i ≠ some 0xAA := by
  decide
theorem witness_RowFaultsOnFirstUnwritten_ready : clear.busy = true ∧ clear.wEff = 4 ∧
    (∀ i < 4, clear.idxAt i = some 5 ∧ clear.classify i 5 = .transparent) ∧ after State.busy (exec .row clear) = some false := by decide
theorem witness_RowFaultsOnFirstUnwritten :
    (rowState [9, 5] (tp [5]) 2).busy = true ∧ (rowState [9, 5] (tp [5]) 2).rowReady = false ∧
    (rowState [1] (tp [1]) 2).rowReady = false := by decide
/-- Column 1 is dropped and column 2 written, in one row; a transparent column in another. -/
theorem witness_ColumnClasses :
    (runny.idxAt 0 = some 9 ∧ runny.skipEnabled = true ∧ runny.effectiveIndex 9 = runny.transpIdx) ∧
    (clipped.idxAt 1 = some 2 ∧ clipped.skipEnabled = false ∧ clipped.sinkX 1 = -1) ∧
    (clipped.idxAt 2 = some 3 ∧ clipped.sinkX 2 = 0 ∧ clipped.sinkY = 0 ∧ clipped.lutAt (clipped.effectiveIndex 3) = some 0xC003) := by
  decide
theorem witness_RowOperandRules :
    ({ common with disposal := 2 } : State).disposal = 2 ∧ ({ common with disposal := 3 } : State).disposal ≠ 2 := by decide
theorem witness_RowDependsOnlyOnResources :
    clipped.SameRow { clipped with events := [.present], werr := true } ∧ clipped.busy = true :=
  ⟨⟨rfl, rfl, rfl, rfl, rfl, rfl, rfl, rfl, rfl, rfl, rfl, fun _ _ => rfl, fun _ => rfl⟩, rfl⟩
theorem witness_RowWriteCounts_all : (rowState [9, 8] (tp [8, 9]) 2).skipEnabled = false ∧
    (∀ i < 2, (rowState [9, 8] (tp [8, 9]) 2).isDropped i = false) ∧
    (after State.busy (exec .row (rowState [9, 8] (tp [8, 9]) 2)) = some false) := by decide
theorem witness_RowWriteCounts_none : clear.busy = true ∧ clear.skipEnabled = true ∧ clear.wEff = 4 ∧
    (∀ i < 4, clear.isTransparent i = true) ∧ after State.events (exec .row clear) = some [] := by decide
theorem witness_RowWriteCounts_zero : (rowState [] [] 0).wEff = 0 ∧ after State.events (exec .row (rowState [] [] 0)) = some [] := by
  decide
theorem witness_RowPresentLast : dropped.busy = true ∧ dropped.lastRow = true ∧ clear.lastRow = false ∧
    after State.events (exec .row dropped) = some [.present] := by decide
theorem witness_RowLeftToRight : clipped.panelW ≤ 4096 ∧ clipped.busy = true ∧
    after State.events (exec .row clipped) = some [pw 0 0 0xC003, pw 1 0 0xC004, pw 2 0 0xC005] := by decide
/-- V17: the runs are T(1) O(1) T(2) O(1) T(1). -/
theorem witness_RunProcedureMatchesColumnLoop :
    runny.runs = [([], [0]), ([1], [2, 3]), ([4], [5])] ∧ runny.busy = true ∧
    after State.events (exec .row runny) = some [pw 1 0 0xC005, pw 4 0 0xC006] := by decide
theorem witness_EventsStayOnPanel : clipped.panelW ≤ 4096 ∧ clipped.panelH ≤ 4096 ∧
    after State.busy (exec .row clipped) = some false := by decide
theorem witness_EventsOnlyFromRow : (∀ m ∈ dropped.inbox.head?, m.isSpec = true) ∧
    after State.events (step dropped) = some [.present] := by decide
theorem witness_StickyErrorFlags :
    after (fun t => (t.werr, t.goerr)) (step { common with werr := true, goerr := true, inbox := [.packet (.transaction Script.clrErr)] }) =
      some (false, false) := by decide
theorem witness_BusyWindowBounds :
    after State.busy (step { common with inbox := [.packet (.transaction Script.go)] }) = some true ∧
    after State.busy (step dropped) = some false := by decide
theorem witness_OneFlagPerTransaction :
    after State.werr (exec (.wrWidth 0) dropped) = some true ∧ after State.goerr (exec (.wrCtrl true) dropped) = some true := by decide
theorem witness_PendingRowSeesStateAtGo : clipped.busy = true ∧ clipped.rowReady = true ∧
    after State.statusWord (clipped.afterHost [Script.go, Script.setW 0]) = some 7 := by decide
theorem witness_PendingRowIsComposited :
    ({ clipped with inbox := [.packet (.transaction Script.go)] } : State).rowReady = true ∧
    ({ clipped with inbox := [.packet (.transaction Script.go)] } : State).inbox =
      [Script.go].map (fun ht => Move.packet (.transaction ht)) := by decide
theorem witness_EveryStepKeepsInvariant : dropped.Inv ∧ after State.events (step dropped) = some [.present] := by decide
theorem witness_ResetFromAnyState : ({ dropped with inbox := [.reset, .reset] } : State).inbox = .reset :: [.reset] := by decide
theorem witness_PanelNeverChanges : after State.panelW (step dropped) = some 16 := by decide
theorem witness_SinkEventsAppend :
    ((15 : Coord).toNat < common.panelW ∧ (7 : Coord).toNat < common.panelH) ∧
    ¬ ((15 : Coord).toNat < common.panelW ∧ (8 : Coord).toNat < common.panelH) := by decide
/-- V18b and V19a. -/
theorem witness_OnlyRowFaults :
    faultOf (exec .row { rowState [9, 5] (tp [5]) 2 with transpIdx := 9 }) = some (.unwrittenLUT 9) ∧
    faultOf (exec .row (rowState [1, 2, 0, 0] (tp [0, 1, 2]) 5)) = some (.unwrittenIDX 4) := by decide

end Sys2Proof.Tests
end

section
/-! The values right after reset (R39) -/

namespace Sys2Proof

/-- The panel is at most 4096 wide (R9). -/
theorem Config.panelW_le : Config.panelW ≤ 4096 := Config.panelWLess1.isLt

namespace Machine

/-! ### What the reads of the registers answer -/

theorem exec_rdCtrl (s : State) : exec .rdCtrl s = .next (s.respond 0) := rfl
theorem exec_rdStatus (s : State) : exec .rdStatus s = .next (s.respond s.statusWord) := rfl
theorem exec_rdRowY (s : State) : exec .rdRowY s = .next (s.respond (s.rowY.setWidth 32)) := rfl
theorem exec_rdOffset (s : State) : exec .rdOffset s = .next (s.respond s.offsetWord) := rfl
theorem exec_rdWidth (s : State) : exec .rdWidth s = .next (s.respond (s.width.setWidth 32)) := rfl
theorem exec_rdMeta (s : State) : exec .rdMeta s = .next (s.respond s.metaWord) := rfl
theorem exec_rdCaps (s : State) : exec .rdCaps s = .next (s.respond s.capsWord) := rfl

/-! ### The CAPS word -/

/-- The CAPS word as a number: each dimension cut to its 16-bit field (R117). -/
theorem State.capsWord_toNat (s : State) :
    s.capsWord.toNat = s.panelH % 65536 * 65536 + s.panelW % 65536 := by
  have hw : s.panelW % 65536 < 2 ^ 16 := Nat.mod_lt _ (by decide)
  have hh : s.panelH % 65536 < 2 ^ 16 := Nat.mod_lt _ (by decide)
  have hfit : (s.panelH % 65536) <<< 16 < 2 ^ 32 := by rw [Nat.shiftLeft_eq]; omega
  calc s.capsWord.toNat
      = (s.panelH % 65536) <<< 16 ||| s.panelW % 65536 := by
        simp only [State.capsWord, BitVec.toNat_or, BitVec.toNat_shiftLeft, BitVec.toNat_setWidth, BitVec.toNat_ofNat]
        rw [Nat.mod_eq_of_lt (a := s.panelW % 2 ^ 16) (by omega), Nat.mod_eq_of_lt (a := s.panelH % 2 ^ 16) (by omega),
          Nat.mod_eq_of_lt hfit]
    _ = (s.panelH % 65536) <<< 16 + s.panelW % 65536 := (Nat.shiftLeft_add_eq_or_of_lt hw _).symm
    _ = s.panelH % 65536 * 65536 + s.panelW % 65536 := by rw [Nat.shiftLeft_eq]

/-- Where the width fits its field, CAPS is the two dimensions side by side, the height cut to the bits that are left. -/
theorem State.capsWord_eq_of_panelW_lt {s : State} (hw : s.panelW < 65536) :
    s.capsWord = BitVec.ofNat 32 (65536 * s.panelH + s.panelW) := by
  apply BitVec.eq_of_toNat_eq
  rw [State.capsWord_toNat, BitVec.toNat_ofNat]
  omega

/-! ### The state right after reset -/

@[simp] theorem State.reset_statusWord : State.reset.statusWord = 0 := rfl
@[simp] theorem State.reset_offsetWord : State.reset.offsetWord = 0 := rfl
@[simp] theorem State.reset_metaWord : State.reset.metaWord = 0 := rfl
theorem State.reset_respond (w : Word) : State.reset.respond w = { State.reset with responses := [w] } := rfl

@[simp] theorem State.reset_panelW : State.reset.panelW = Config.panelW := rfl
@[simp] theorem State.reset_panelH : State.reset.panelH = Config.panelH := rfl

/-- CAPS at reset is the configured height above the configured width (R30, R117). -/
theorem State.reset_capsWord :
    State.reset.capsWord = BitVec.ofNat 32 (65536 * Config.panelH + Config.panelW) := by
  have hw : State.reset.panelW < 65536 := by
    have := Config.panelW_le
    rw [State.reset_panelW]
    omega
  rw [State.capsWord_eq_of_panelW_lt hw, State.reset_panelW, State.reset_panelH]

/-- No LUT entry is written at reset (R34). -/
@[simp] theorem State.reset_lutWr (n : Index) : State.reset.lutWr n = false := rfl

/-- No IDX column is written at reset (R34). -/
@[simp] theorem State.reset_idxWr (i : Nat) : State.reset.idxWr i = false := rfl

/-- Every register but CAPS reads 0 at reset (R39). -/
theorem exec_read_reset {i : Instr} (hi : i ∈ [Instr.rdCtrl, .rdStatus, .rdRowY, .rdOffset, .rdWidth, .rdMeta]) :
    exec i State.reset = .next { State.reset with responses := [0] } := by
  rw [← State.reset_respond]
  simp only [List.mem_cons, List.not_mem_nil, or_false] at hi
  obtain rfl | rfl | rfl | rfl | rfl | rfl := hi
  · exact exec_rdCtrl _
  · rw [exec_rdStatus, State.reset_statusWord]
  · exact exec_rdRowY _
  · rw [exec_rdOffset, State.reset_offsetWord]
  · exact exec_rdWidth _
  · rw [exec_rdMeta, State.reset_metaWord]

/-- CAPS reads its constant at reset (R39, R117). -/
theorem exec_rdCaps_reset : exec .rdCaps State.reset =
    .next { State.reset with responses := [BitVec.ofNat 32 (65536 * Config.panelH + Config.panelW)] } := by
  rw [exec_rdCaps, State.reset_capsWord, State.reset_respond]

/-- Settles O47: the fields are the reset state's own, the written bits are those of the empty memories, and the reads answer the
words of those fields; CAPS needs that the panel's width fits its 16-bit field. -/
theorem resetValues : Obligations.ResetValues :=
  ⟨rfl, rfl, rfl, rfl, rfl, rfl, rfl, rfl, rfl, rfl, rfl, rfl, State.reset_lutWr, State.reset_idxWr, rfl,
    fun _ hi => exec_read_reset hi, exec_rdCaps_reset⟩

end Machine

end Sys2Proof
end

section
/-! What a host transaction can do: the operations it decodes to, the word each read answers and the store each row-resource write
makes (R52, R54, R75) -/

namespace Sys2Proof

open Machine

/-! ### Decoding -/

@[simp] theorem decodeHT_htMake_write (a : Addr) (d : Word) : decodeHT (htMake true a d) = decodeWrite a d := by
  simp [decodeHT]

@[simp] theorem decodeHT_htMake_read (a : Addr) (d : Word) : decodeHT (htMake false a d) = decodeRead a := by
  simp [decodeHT]

/-- Two addresses of one word are one transaction's address (R52). -/
theorem decodeHT_htMake_congr (w : Bool) {a b : Addr} (d : Word) (h : a.toNat / 4 = b.toNat / 4) :
    decodeHT (htMake w a d) = decodeHT (htMake w b d) := by
  have hmap : addressMap a = addressMap b := addressMap_congr h
  cases w with
  | true => simp only [decodeHT_htMake_write, decodeWrite, hmap]
  | false => simp only [decodeHT_htMake_read, decodeRead, hmap]

theorem decodeRead_isRead (a : Addr) : (decodeRead a).isRead = true := by
  unfold decodeRead
  cases addressMap a <;> rfl

/-- A write is a row-resource write or one of the four operations that are not (R108). -/
theorem decodeWrite_cases (a : Addr) (d : Word) :
    (decodeWrite a d).isRowWrite = true ∨ (∃ go, decodeWrite a d = .wrCtrl go) ∨
    (∃ cw cg, decodeWrite a d = .wrStatus cw cg) ∨ decodeWrite a d = .wrCaps ∨ ∃ w, decodeWrite a d = .reservedWr w := by
  unfold decodeWrite
  cases addressMap a with
  | rowY | offset | width | metaWord | lut | idx => exact .inl rfl
  | ctrl => exact .inr (.inl ⟨_, rfl⟩)
  | status => exact .inr (.inr (.inl ⟨_, _, rfl⟩))
  | caps => exact .inr (.inr (.inr (.inl rfl)))
  | unmapped w => exact .inr (.inr (.inr (.inr ⟨w, rfl⟩)))

/-- Everything a transaction can decode to. -/
theorem decodeHT_cases (ht : HT) :
    (decodeHT ht).isRead = true ∨ (decodeHT ht).isRowWrite = true ∨ (∃ go, decodeHT ht = .wrCtrl go) ∨
    (∃ cw cg, decodeHT ht = .wrStatus cw cg) ∨ decodeHT ht = .wrCaps ∨ ∃ w, decodeHT ht = .reservedWr w := by
  unfold decodeHT
  cases htWrite ht with
  | true => exact .inr (decodeWrite_cases _ _)
  | false => exact .inl (decodeRead_isRead _)

/-! ### Reads -/

/-- The word a read answers (R103 to R117, R131, R141); 0 for what is no read. -/
def Instr.answer : Instr → State → Word
  | .rdStatus, s => s.statusWord
  | .rdRowY, s => s.rowY.setWidth 32
  | .rdOffset, s => s.offsetWord
  | .rdWidth, s => s.width.setWidth 32
  | .rdMeta, s => s.metaWord
  | .rdCaps, s => s.capsWord
  | .rdLut n, s => (s.lutOut n).setWidth 32
  | _, _ => 0

/-- A read returns its word and does nothing else (R100). -/
theorem exec_of_isRead {i : Instr} (h : i.isRead = true) (s : State) : exec i s = .next (s.respond (i.answer s)) := by
  cases i
  case rdCtrl | rdStatus | rdRowY | rdOffset | rdWidth | rdMeta | rdCaps | rdLut | rdIdx | reservedRd => rfl
  all_goals cases h

/-- The words already returned do not matter to a read. -/
@[simp] theorem Instr.answer_respond (i : Instr) (s : State) (w : Word) : i.answer (s.respond w) = i.answer s := by
  cases i <;> rfl

/-- A repeated read returns the same word (R54). -/
theorem exec_read_repeat {i : Instr} (h : i.isRead = true) (s : State) :
    exec i (s.respond (i.answer s)) = .next { s with responses := s.responses ++ [i.answer s, i.answer s] } := by
  rw [exec_of_isRead h, Instr.answer_respond]
  simp only [State.respond, List.append_assoc, List.cons_append, List.nil_append]

/-! ### Row-resource writes -/

/-- What a row-resource write stores when the guard lets it through (R110 to R116, R130, R140). -/
def Instr.rowStore : Instr → State → State
  | .wrRowY y, s => s.putRowY y
  | .wrOffset x y, s => s.putOffset x y
  | .wrWidth w, s => s.putWidth w
  | .wrMeta t b h d l, s => s.putMeta t b h d l
  | .wrLut n c, s => s.putLut n c
  | .wrIdx w b0 b1 b2 b3, s => s.putIdx w b0 b1 b2 b3
  | _, s => s

/-- A row-resource write is its store behind the guard (R108). -/
theorem exec_of_isRowWrite {i : Instr} (h : i.isRowWrite = true) (s : State) : exec i s = .next (s.guarded i.rowStore) := by
  cases i
  case wrRowY | wrOffset | wrWidth | wrMeta | wrLut | wrIdx => rfl
  all_goals cases h

theorem exec_rowWrite_idle {i : Instr} (h : i.isRowWrite = true) {s : State} (hb : s.busy = false) :
    exec i s = .next (i.rowStore s) := by
  rw [exec_of_isRowWrite h, State.guarded_idle hb]

theorem exec_rowWrite_busy {i : Instr} (h : i.isRowWrite = true) {s : State} (hb : s.busy = true) :
    exec i s = .next { s with werr := true } := by
  rw [exec_of_isRowWrite h, State.guarded_busy hb]

@[simp] theorem Instr.rowStore_busy (i : Instr) (s : State) : (i.rowStore s).busy = s.busy := by
  cases i
  case wrIdx w b0 b1 b2 b3 => exact State.putIdx_busy s w b0 b1 b2 b3
  all_goals rfl

/-- Storing twice is storing once (R54). -/
theorem Instr.rowStore_rowStore (i : Instr) (s : State) : i.rowStore (i.rowStore s) = i.rowStore s := by
  cases i
  case wrLut n c => simp only [Instr.rowStore, State.putLut, Memory.write_write]
  case wrIdx w b0 b1 b2 b3 => exact State.putIdx_putIdx s w b0 b1 b2 b3
  all_goals rfl

/-- A repeated row-resource write leaves what the first one stored (R54). -/
theorem exec_rowWrite_repeat {i : Instr} (h : i.isRowWrite = true) {s : State} (hb : s.busy = false) :
    exec i (i.rowStore s) = .next (i.rowStore s) := by
  have hb' : (i.rowStore s).busy = false := by rw [Instr.rowStore_busy, hb]
  rw [exec_rowWrite_idle h hb', Instr.rowStore_rowStore]

/-! ### The writes that are no row-resource writes -/

theorem exec_wrCtrl (go : Bool) (s : State) : exec (.wrCtrl go) s = .next (if go then s.takeGo else s) := rfl
theorem exec_wrStatus (cw cg : Bool) (s : State) : exec (.wrStatus cw cg) s = .next (s.clearErrors cw cg) := rfl
theorem exec_wrCaps (s : State) : exec .wrCaps s = .next s := rfl
theorem exec_reservedWr (a : BitVec 12) (s : State) : exec (.reservedWr a) s = .next s := rfl

theorem exec_go_idle {s : State} (hb : s.busy = false) : exec (.wrCtrl true) s = .next { s with busy := true } := by
  rw [exec_wrCtrl, if_pos rfl, State.takeGo_idle hb]

theorem exec_go_busy {s : State} (hb : s.busy = true) : exec (.wrCtrl true) s = .next { s with goerr := true } := by
  rw [exec_wrCtrl, if_pos rfl, State.takeGo_busy hb]

/-- A repeated STATUS write leaves the flags that the first one left (R54). -/
theorem exec_wrStatus_repeat (cw cg : Bool) (s : State) :
    exec (.wrStatus cw cg) (s.clearErrors cw cg) = .next (s.clearErrors cw cg) := by
  rw [exec_wrStatus]
  simp only [State.clearErrors_eq, Bool.and_assoc, Bool.and_self]

/-! ### Every transaction -/

/-- No transaction stops, in any state (R52). -/
theorem exec_decodeHT_next (ht : HT) (s : State) : ∃ t, exec (decodeHT ht) s = .next t := by
  rcases decodeHT_cases ht with h | h | ⟨go, h⟩ | ⟨cw, cg, h⟩ | h | ⟨w, h⟩
  · exact ⟨_, exec_of_isRead h s⟩
  · exact ⟨_, exec_of_isRowWrite h s⟩
  all_goals rw [h]
  · exact ⟨_, exec_wrCtrl go s⟩
  · exact ⟨_, exec_wrStatus cw cg s⟩
  · exact ⟨_, exec_wrCaps s⟩
  · exact ⟨_, exec_reservedWr w s⟩

/-- Settles O5: the address map reads the word address alone, a read's operation is made from the address alone, and each of the
operations a transaction decodes to completes. -/
theorem lowAddressBitsIgnored : Obligations.LowAddressBitsIgnored :=
  ⟨fun w _ _ d h => decodeHT_htMake_congr w d h, fun a d e => by simp only [decodeHT_htMake_read], exec_decodeHT_next⟩

/-- Settles O25: a read's word does not depend on the words returned before, each store is idempotent and keeps BUSY, and the guard
and the GO look at BUSY alone. -/
theorem hostAccessSideEffects : Obligations.HostAccessSideEffects :=
  ⟨fun i s h => ⟨i.answer s, exec_of_isRead h s, exec_read_repeat h s⟩,
    fun i s h hb => ⟨i.rowStore s, exec_rowWrite_idle h hb, exec_rowWrite_repeat h hb⟩,
    fun cw cg s => ⟨s.clearErrors cw cg, exec_wrStatus cw cg s, exec_wrStatus_repeat cw cg s⟩,
    fun s hb => ⟨{ s with busy := true }, exec_go_idle hb, rfl, rfl, exec_go_busy rfl⟩,
    fun _ s h hb => ⟨{ s with werr := true }, exec_rowWrite_busy h hb, rfl⟩⟩

end Sys2Proof
end

section
/-! The ROW step as a function of the row resources (R33, R150), and the BUSY window that leaves them alone (R62) -/

namespace Sys2Proof.Machine

/-! ### R150's loop column by column -/

/-- The PIXEL_WRITEs of column `i` by its class (R158); none where an entry it reads has not been written. -/
def State.columnPixels (s : State) (i : Nat) : List SinkEvent :=
  match s.idxAt i with
  | none => []
  | some n =>
    match s.classify i n with
    | .transparent => []
    | .dropped => []
    | .written m =>
      match s.lutAt m with
      | none => []
      | some c => [.pixelWrite (BitVec.ofInt 16 (s.sinkX i)) (BitVec.ofInt 16 s.sinkY) c]

/-- A ready column issues its pixels. -/
theorem State.columnEvents_eq_columnPixels {s : State} {i : Nat} (h : s.columnReady i = true) :
    s.columnEvents i = .ok (s.columnPixels i) := by
  obtain ⟨n, hn, ⟨hc, he⟩ | ⟨hc, he⟩ | ⟨m, c, hc, hm, he⟩⟩ := State.columnEvents_ready h
  · rw [he]; simp only [State.columnPixels, hn, hc]
  · rw [he]; simp only [State.columnPixels, hn, hc]
  · rw [he]; simp only [State.columnPixels, hn, hc, hm]

/-- The effective index, with the restore test written out (R152, R153). -/
theorem State.effectiveIndex_eq (s : State) (n : Index) :
    s.effectiveIndex n = if s.disposal = 2 ∧ n = s.transpIdx then s.bgIdx else n := by
  simp [State.effectiveIndex, State.restore, restoreBackground]

/-- The transparency test, written out (R154, R158). -/
theorem State.skips_iff (s : State) (n : Index) :
    (s.skipEnabled && s.effectiveIndex n == s.transpIdx) = true ↔
      s.hasTransp = true ∧ s.disposal ≠ 2 ∧ s.effectiveIndex n = s.transpIdx := by
  simp [State.skipEnabled, State.restore, restoreBackground, and_assoc]

/-- The off-panel test of column `i`, written out (R155, R157). -/
theorem State.offPanel_iff (s : State) (i : Nat) :
    (s.xOff.toInt + i < 0 ∨ (s.panelW : Int) ≤ s.xOff.toInt + i ∨
      s.yOff.toInt + s.rowY.toNat < 0 ∨ (s.panelH : Int) ≤ s.yOff.toInt + s.rowY.toNat) ↔
      ¬ s.onPanel (s.sinkX i) s.sinkY = true := by
  rw [State.onPanel, decide_eq_true_eq, State.sinkX, State.sinkY]
  omega

/-- The loop written out from the pseudocode issues the pixels of each column by its class. -/
theorem State.loopPixels_eq_flatMap (s : State) : s.loopPixels = (List.range s.wEff).flatMap s.columnPixels := by
  unfold State.loopPixels
  congr 1
  funext i
  unfold State.columnPixels
  cases s.idxAt i with
  | none => rfl
  | some n =>
    simp only [← State.effectiveIndex_eq, ← State.skips_iff, State.offPanel_iff, State.classify]
    split_ifs with hskip hon <;> rfl

/-- A ready row issues the loop's pixels (R150). -/
theorem State.rowPixels_eq_loopPixels {s : State} (h : s.rowReady = true) : s.rowPixels = .ok s.loopPixels := by
  rw [State.loopPixels_eq_flatMap]
  exact State.columnsEvents_ok fun i hi => State.columnEvents_eq_columnPixels (List.all_eq_true.mp h i hi)

/-! ### The whole step -/

/-- A pending row whose loop completes issues the loop's events and then PRESENT for the last row, and clears BUSY (R150, R159). -/
theorem execRow_of_rowPixels {s : State} (hb : s.busy = true) {es : List SinkEvent} (h : s.rowPixels = .ok es) :
    execRow s = .next { s with
      busy := false, events := s.events ++ es ++ (if s.lastRow = true then [SinkEvent.present] else []) } := by
  rw [execRow_pending hb h, List.append_assoc]
  rfl

/-- A pending row faults exactly as its loop does. -/
theorem execRow_fault_iff {s : State} (hb : s.busy = true) (f : Fault) : execRow s = .fault f ↔ s.rowPixels = .error f :=
  ⟨fun h => (execRow_fault h).2, fun h => by simp only [execRow, hb, h, if_true]⟩

/-! ### What the loop reads (R33, R162) -/

section
variable {s t : State}

theorem State.SameResources.sameRow (h : s.SameResources t) : s.SameRow t := by
  obtain ⟨hy, hx, hyo, hw, ht, hbg, hht, hd, hl, hpw, hph, hlut, hidx⟩ := h
  exact ⟨hy, hx, hyo, hw, ht, hbg, hht, hd, hl, hpw, hph, fun i _ => by simp only [State.idxAt, hidx],
    fun n => by simp only [State.lutAt, hlut]⟩

theorem State.SameRow.wEff_eq (h : s.SameRow t) : s.wEff = t.wEff := by
  obtain ⟨-, -, -, hw, -, -, -, -, -, hpw, -⟩ := h
  simp only [State.wEff, hw, hpw]

theorem State.SameRow.sinkX_eq (h : s.SameRow t) (i : Nat) : s.sinkX i = t.sinkX i := by
  obtain ⟨-, hx, -⟩ := h
  simp only [State.sinkX, hx]

theorem State.SameRow.sinkY_eq (h : s.SameRow t) : s.sinkY = t.sinkY := by
  obtain ⟨hy, -, hyo, -⟩ := h
  simp only [State.sinkY, hy, hyo]

theorem State.SameRow.restore_eq (h : s.SameRow t) : s.restore = t.restore := by
  obtain ⟨-, -, -, -, -, -, -, hd, -⟩ := h
  simp only [State.restore, hd]

theorem State.SameRow.effectiveIndex_eq (h : s.SameRow t) (n : Index) : s.effectiveIndex n = t.effectiveIndex n := by
  have hr := h.restore_eq
  obtain ⟨-, -, -, -, ht, hbg, -⟩ := h
  unfold State.effectiveIndex
  rw [hr, ht, hbg]

theorem State.SameRow.skipEnabled_eq (h : s.SameRow t) : s.skipEnabled = t.skipEnabled := by
  have hr := h.restore_eq
  obtain ⟨-, -, -, -, -, -, hht, -⟩ := h
  simp only [State.skipEnabled, hht, hr]

theorem State.SameRow.onPanel_eq (h : s.SameRow t) (x y : Int) : s.onPanel x y = t.onPanel x y := by
  obtain ⟨-, -, -, -, -, -, -, -, -, hpw, hph, -⟩ := h
  unfold State.onPanel
  rw [hpw, hph]

theorem State.SameRow.classify_eq (h : s.SameRow t) (i : Nat) (n : Index) : s.classify i n = t.classify i n := by
  have htransp : s.transpIdx = t.transpIdx := by
    obtain ⟨-, -, -, -, ht, -⟩ := h
    exact ht
  unfold State.classify
  rw [h.skipEnabled_eq, h.effectiveIndex_eq, htransp, h.onPanel_eq, h.sinkX_eq, h.sinkY_eq]

theorem State.SameRow.columnEvents_eq (h : s.SameRow t) {i : Nat} (hi : i < s.wEff) : s.columnEvents i = t.columnEvents i := by
  have hclass := h.classify_eq i
  have hsx := h.sinkX_eq i
  have hsy := h.sinkY_eq
  obtain ⟨-, -, -, -, -, -, -, -, -, -, -, hidx, hlut⟩ := h
  simp only [State.columnEvents, State.idxRead, State.lookup, hidx i hi, hlut, hclass, hsx, hsy]

/-- Two states with one row's resources have one loop: the same events, or the same fault (R162). -/
theorem State.SameRow.rowPixels_eq (h : s.SameRow t) : s.rowPixels = t.rowPixels := by
  unfold State.rowPixels
  rw [← h.wEff_eq]
  exact State.columnsEvents_congr fun i hi => h.columnEvents_eq (List.mem_range.mp hi)

end

/-! ### The BUSY window (R62) -/

/-- During the BUSY window a transaction changes nothing but the error flags and the words returned. -/
theorem exec_decodeHT_busy (ht : HT) {s : State} (hb : s.busy = true) :
    ∃ we ge rs, exec (decodeHT ht) s = .next { s with werr := we, goerr := ge, responses := rs } := by
  rcases decodeHT_cases ht with h | h | ⟨go, h⟩ | ⟨cw, cg, h⟩ | h | ⟨w, h⟩
  · exact ⟨_, _, _, exec_of_isRead h s⟩
  · exact ⟨_, _, _, exec_rowWrite_busy h hb⟩
  all_goals rw [h]
  · cases go with
    | true => exact ⟨_, _, _, exec_go_busy hb⟩
    | false => exact ⟨_, _, _, exec_wrCtrl false s⟩
  · exact ⟨_, _, _, exec_wrStatus cw cg s⟩
  · exact ⟨_, _, _, exec_wrCaps s⟩
  · exact ⟨_, _, _, exec_reservedWr w s⟩

/-- However many transactions come while a row is pending, all of them run and change nothing but the error flags and the words
returned. -/
theorem State.afterHost_busy (hts : List HT) {s : State} (hb : s.busy = true) :
    ∃ we ge rs, s.afterHost hts = .next { s with werr := we, goerr := ge, responses := rs } := by
  induction hts generalizing s with
  | nil => exact ⟨_, _, _, rfl⟩
  | cons ht hts ih =>
    obtain ⟨we, ge, rs, hstep⟩ := exec_decodeHT_busy ht hb
    obtain ⟨we', ge', rs', hrest⟩ := ih (s := { s with werr := we, goerr := ge, responses := rs }) hb
    exact ⟨we', ge', rs', by rw [State.afterHost, hstep]; exact hrest⟩

/-- Settles O42: the window leaves every row resource as it was, and the ROW step's loop is a function of those. -/
theorem pendingRowSeesStateAtGo : Obligations.PendingRowSeesStateAtGo := by
  intro hts s hb
  obtain ⟨we, ge, rs, hrun⟩ := State.afterHost_busy hts hb
  let t : State := { s with werr := we, goerr := ge, responses := rs }
  have hres : s.SameResources t := ⟨rfl, rfl, rfl, rfl, rfl, rfl, rfl, rfl, rfl, rfl, rfl, rfl, rfl⟩
  have hloop : s.rowPixels = t.rowPixels := hres.sameRow.rowPixels_eq
  refine ⟨t, hrun, hb, hres, rfl, fun f => ?_, fun hr => ?_⟩
  · show execRow s = .fault f ↔ execRow t = .fault f
    rw [execRow_fault_iff hb, execRow_fault_iff (s := t) hb, hloop]
  · have hpix : t.rowPixels = .ok s.loopPixels := hloop ▸ State.rowPixels_eq_loopPixels hr
    exact execRow_of_rowPixels (s := t) hb hpix

end Sys2Proof.Machine
end

section
/-! The decoder and the opcode map: each mask keeps the key's bits from some position up, so a row selects a block of addresses in one
direction, and the address map gives that block to the row's operation (R58, R72) -/

namespace Sys2Proof

/-! ### No two rows share a key -/

/-- A key selected by two rows makes their patterns agree on the bits that both masks keep. -/
theorem patterns_agree_of_common_key {k : Key} {r r' : TableRow} (h : k &&& r.mask = r.pattern) (h' : k &&& r'.mask = r'.pattern) :
    r.pattern &&& r'.mask = r'.pattern &&& r.mask := by
  rw [← h, ← h', BitVec.and_assoc, BitVec.and_assoc, BitVec.and_comm r.mask]

/-- Any two rows of the map differ in a bit that both masks keep (R72). -/
theorem opcodeTable_patterns_differ :
    ∀ r ∈ opcodeTable, ∀ r' ∈ opcodeTable, r.pattern &&& r'.mask = r'.pattern &&& r.mask → r' = r := by
  decide

/-- At most one row is selected by a key (R72). -/
theorem opcodeTable_selected_unique {k : Key} {r r' : TableRow} (hr : r ∈ opcodeTable) (hr' : r' ∈ opcodeTable)
    (h : k &&& r.mask = r.pattern) (h' : k &&& r'.mask = r'.pattern) : r' = r :=
  opcodeTable_patterns_differ r hr r' hr' (patterns_agree_of_common_key h h')

/-! ### The mnemonic of a place -/

/-- The mnemonic that R72 gives a place of the address map in each direction. -/
def Place.mnemonic (write : Bool) : Place → Mnemonic
  | .ctrl => if write then .WR_CTRL else .RD_CTRL
  | .status => if write then .WR_STATUS else .RD_STATUS
  | .rowY => if write then .WR_ROW_Y else .RD_ROW_Y
  | .offset => if write then .WR_OFFSET else .RD_OFFSET
  | .width => if write then .WR_WIDTH else .RD_WIDTH
  | .metaWord => if write then .WR_META else .RD_META
  | .caps => if write then .WR_CAPS else .RD_CAPS
  | .lut _ => if write then .WR_LUT else .RD_LUT
  | .idx _ => if write then .WR_IDX else .RD_IDX
  | .unmapped _ => if write then .RESERVED_WR else .RESERVED_RD

theorem decodeRead_mnemonic (a : Addr) : (decodeRead a).mnemonic = (addressMap a).mnemonic false := by
  unfold decodeRead
  cases addressMap a <;> rfl

theorem decodeWrite_mnemonic (a : Addr) (d : Word) : (decodeWrite a d).mnemonic = (addressMap a).mnemonic true := by
  unfold decodeWrite
  cases addressMap a <;> rfl

/-- A transaction's mnemonic is that of the place it addresses, in its direction. -/
theorem decodeHT_mnemonic (ht : HT) : (decodeHT ht).mnemonic = (addressMap (htAddr ht)).mnemonic (htWrite ht) := by
  unfold decodeHT
  cases htWrite ht with
  | true => exact decodeWrite_mnemonic _ _
  | false => exact decodeRead_mnemonic _

/-! ### The row of a block of addresses -/

/-- The row that selects, in one direction, the addresses whose bits from `s` up are `q`. -/
def blockRow (m : Mnemonic) (write : Bool) (s q : Nat) : TableRow :=
  ⟨m, BitVec.ofNat 15 ((write.toNat * 2 ^ (14 - s) + q) * 2 ^ s), BitVec.allOnes 15 <<< s⟩

/-- The bits of a transaction's key from `s` up: W above those of the address. -/
theorem htKey_toNat_div (ht : HT) {s : Nat} (hs : s ≤ 14) :
    (htKey ht).toNat / 2 ^ s = (htWrite ht).toNat * 2 ^ (14 - s) + (htAddr ht).toNat / 2 ^ s := by
  have hpow : 2 ^ 14 = 2 ^ s * 2 ^ (14 - s) := by rw [← Nat.pow_add, Nat.add_sub_cancel' hs]
  rw [htKey_toNat, hpow, Nat.mul_left_comm, Nat.mul_add_div (Nat.two_pow_pos s)]

/-- A transaction's key selects the row of its own block. -/
theorem htKey_selects_blockRow (ht : HT) (m : Mnemonic) {s : Nat} (hs : s ≤ 14) :
    htKey ht &&& (blockRow m (htWrite ht) s ((htAddr ht).toNat / 2 ^ s)).mask =
      (blockRow m (htWrite ht) s ((htAddr ht).toNat / 2 ^ s)).pattern := by
  apply BitVec.eq_of_toNat_eq
  simp only [blockRow, and_allOnes_shiftLeft, ← htKey_toNat_div ht hs, BitVec.toNat_shiftLeft, BitVec.toNat_ushiftRight,
    Nat.shiftRight_eq_div_pow, Nat.shiftLeft_eq, BitVec.toNat_ofNat]

/-! ### The rows cover every address in both directions -/

/-- An address is in a block whose two rows, with the mnemonics of the place at that address, are in the map. -/
def HasBlockRows (a : Addr) : Prop :=
  ∃ s ≤ 14, ∀ w, blockRow ((addressMap a).mnemonic w) w s (a.toNat / 2 ^ s) ∈ opcodeTable

theorem hasBlockRows_of_block {a : Addr} {p : Place} {s q : Nat} (hp : addressMap a = p) (hq : a.toNat / 2 ^ s = q) (hs : s ≤ 14)
    (hrows : ∀ w, blockRow (p.mnemonic w) w s q ∈ opcodeTable) : HasBlockRows a :=
  ⟨s, hs, by rwa [hp, hq]⟩

/-- The rows of a register's word, of the LUT window and of the IDX window. -/
theorem hasBlockRows_of_mapped {a : Addr} (h : a.toNat / 4 < 7 ∨ a.toNat / 1024 = 1 ∨ a.toNat / 4096 = 1) : HasBlockRows a := by
  obtain h | h | h | h | h | h | h | h | h :
      a.toNat / 2 ^ 2 = 0 ∨ a.toNat / 2 ^ 2 = 1 ∨ a.toNat / 2 ^ 2 = 2 ∨ a.toNat / 2 ^ 2 = 3 ∨ a.toNat / 2 ^ 2 = 4 ∨
      a.toNat / 2 ^ 2 = 5 ∨ a.toNat / 2 ^ 2 = 6 ∨ a.toNat / 2 ^ 10 = 1 ∨ a.toNat / 2 ^ 12 = 1 := by omega
  · exact hasBlockRows_of_block (addressMap_ctrl h) h (by decide) (by decide)
  · exact hasBlockRows_of_block (addressMap_status h) h (by decide) (by decide)
  · exact hasBlockRows_of_block (addressMap_rowY h) h (by decide) (by decide)
  · exact hasBlockRows_of_block (addressMap_offset h) h (by decide) (by decide)
  · exact hasBlockRows_of_block (addressMap_width h) h (by decide) (by decide)
  · exact hasBlockRows_of_block (addressMap_metaWord h) h (by decide) (by decide)
  · exact hasBlockRows_of_block (addressMap_caps h) h (by decide) (by decide)
  · exact hasBlockRows_of_block (addressMap_lut h) h (by decide) (by simp only [Place.mnemonic]; decide)
  · exact hasBlockRows_of_block (addressMap_idx h) h (by decide) (by simp only [Place.mnemonic]; decide)

/-- The rows of the unmapped addresses: R72 cuts 0x001C..0x03FF at the powers of two, and has one row for each of 0x0800..0x0FFF and
0x2000..0x3FFF. -/
theorem hasBlockRows_of_unmapped {a : Addr}
    (h : (28 ≤ a.toNat ∧ a.toNat < 1024) ∨ (2048 ≤ a.toNat ∧ a.toNat < 4096) ∨ 8192 ≤ a.toNat) : HasBlockRows a := by
  have ha := a.isLt
  have hp := addressMap_reserved h
  obtain h | h | h | h | h | h | h | h :
      a.toNat / 2 ^ 2 = 7 ∨ a.toNat / 2 ^ 5 = 1 ∨ a.toNat / 2 ^ 6 = 1 ∨ a.toNat / 2 ^ 7 = 1 ∨ a.toNat / 2 ^ 8 = 1 ∨
      a.toNat / 2 ^ 9 = 1 ∨ a.toNat / 2 ^ 11 = 1 ∨ a.toNat / 2 ^ 13 = 1 := by omega
  all_goals exact hasBlockRows_of_block hp h (by decide) (by simp only [Place.mnemonic]; decide)

theorem hasBlockRows (a : Addr) : HasBlockRows a := by
  by_cases h : a.toNat / 4 < 7 ∨ a.toNat / 1024 = 1 ∨ a.toNat / 4096 = 1
  · exact hasBlockRows_of_mapped h
  · exact hasBlockRows_of_unmapped (by omega)

/-- Every transaction's key selects a row that has the mnemonic of the decoded operation (R72). -/
theorem exists_selected_row (ht : HT) :
    ∃ r ∈ opcodeTable, htKey ht &&& r.mask = r.pattern ∧ (decodeHT ht).mnemonic = r.mnemonic := by
  obtain ⟨s, hs, hrows⟩ := hasBlockRows (htAddr ht)
  exact ⟨_, hrows (htWrite ht), htKey_selects_blockRow ht _ hs, decodeHT_mnemonic ht⟩

/-- Settles O4: the address map puts every address in a block with a row of the decoded mnemonic, and no other row has the key. -/
theorem decoderFollowsOpcodeMap : Obligations.DecoderFollowsOpcodeMap := by
  intro ht
  obtain ⟨r, hr, hsel, hmn⟩ := exists_selected_row ht
  exact ⟨r, hr, hsel, fun _ hr' hsel' => opcodeTable_selected_unique hr hr' hsel hsel', hmn⟩

end Sys2Proof
end

section
/-! The host port (40_host_port.md): a key that selects a row of the opcode map fixes the operation and its operands (R72, R73), and
each operation has the one effect of its rule -/

namespace Sys2Proof

open Machine

/-! ### From a selected row to the operation -/

/-- The operation of a mnemonic, its operands taken from a transaction's fields (R73); none for what is no host transaction. -/
def Mnemonic.assemble (ht : HT) : Mnemonic → Option Instr
  | .RD_CTRL => some .rdCtrl
  | .WR_CTRL => some (.wrCtrl ((htData ht).getLsbD 0))
  | .RD_STATUS => some .rdStatus
  | .WR_STATUS => some (.wrStatus ((htData ht).getLsbD 1) ((htData ht).getLsbD 2))
  | .RD_ROW_Y => some .rdRowY
  | .WR_ROW_Y => some (.wrRowY ((htData ht).extractLsb' 0 16))
  | .RD_OFFSET => some .rdOffset
  | .WR_OFFSET => some (.wrOffset ((htData ht).extractLsb' 0 16) ((htData ht).extractLsb' 16 16))
  | .RD_WIDTH => some .rdWidth
  | .WR_WIDTH => some (.wrWidth ((htData ht).extractLsb' 0 16))
  | .RD_META => some .rdMeta
  | .WR_META => some (.wrMeta ((htData ht).extractLsb' 0 8) ((htData ht).extractLsb' 8 8) ((htData ht).getLsbD 16)
      ((htData ht).extractLsb' 17 3) ((htData ht).getLsbD 20))
  | .RD_CAPS => some .rdCaps
  | .WR_CAPS => some .wrCaps
  | .RD_LUT => some (.rdLut ((htAddr ht).extractLsb' 2 8))
  | .WR_LUT => some (.wrLut ((htAddr ht).extractLsb' 2 8) ((htData ht).extractLsb' 0 16))
  | .RD_IDX => some (.rdIdx ((htAddr ht).extractLsb' 2 10))
  | .WR_IDX => some (.wrIdx ((htAddr ht).extractLsb' 2 10) ((htData ht).extractLsb' 0 8) ((htData ht).extractLsb' 8 8)
      ((htData ht).extractLsb' 16 8) ((htData ht).extractLsb' 24 8))
  | .RESERVED_RD => some (.reservedRd ((htAddr ht).extractLsb' 2 12))
  | .RESERVED_WR => some (.reservedWr ((htAddr ht).extractLsb' 2 12))
  | .ROW | .PIXEL_WRITE | .PRESENT => none

/-- The operand that a place of a window or of an unmapped word carries is a field of the address (R58). -/
def Place.fieldOf (a : Addr) : Place → Prop
  | .lut n => n = a.extractLsb' 2 8
  | .idx w => w = a.extractLsb' 2 10
  | .unmapped w => w = a.extractLsb' 2 12
  | .ctrl | .status | .rowY | .offset | .width | .metaWord | .caps => True

theorem addressMap_fieldOf (a : Addr) : (addressMap a).fieldOf a := by
  rw [addressMap_eq]
  repeat' split
  all_goals trivial

/-- A transaction's operation is the one that its mnemonic assembles from its fields (R73). -/
theorem assemble_decodeHT (ht : HT) : (decodeHT ht).mnemonic.assemble ht = some (decodeHT ht) := by
  have hfield := addressMap_fieldOf (htAddr ht)
  unfold decodeHT decodeRead decodeWrite
  cases hp : addressMap (htAddr ht) with
  | ctrl | status | rowY | offset | width | metaWord | caps => cases htWrite ht <;> rfl
  | lut | idx | unmapped =>
    rw [hp] at hfield
    cases hfield
    cases htWrite ht <;> rfl

/-- The one row that a transaction's key selects bears the mnemonic of its operation (R72). -/
theorem decodeHT_mnemonic_of_selected {ht : HT} {r : TableRow} (hr : r ∈ opcodeTable) (h : htKey ht &&& r.mask = r.pattern) :
    (decodeHT ht).mnemonic = r.mnemonic := by
  obtain ⟨r', hr', hsel', hmn⟩ := exists_selected_row ht
  rw [hmn, opcodeTable_selected_unique hr hr' h hsel']

/-- A transaction whose key selects a row decodes to that row's operation. -/
theorem decodeHT_of_selected {ht : HT} {r : TableRow} {i : Instr} (hr : r ∈ opcodeTable) (h : htKey ht &&& r.mask = r.pattern)
    (hi : r.mnemonic.assemble ht = some i) : decodeHT ht = i := by
  rw [← decodeHT_mnemonic_of_selected hr h, assemble_decodeHT] at hi
  exact Option.some.inj hi

/-- The same with the row given by its three columns. -/
theorem decodeHT_of_key {ht : HT} {p M : Key} {i : Instr} (m : Mnemonic) (hr : ⟨m, p, M⟩ ∈ opcodeTable) (h : htKey ht &&& M = p)
    (hi : m.assemble ht = some i) : decodeHT ht = i :=
  decodeHT_of_selected hr h hi

/-! ### The words of the reads -/

/-- The OFFSET word as a number: Y_OFF above X_OFF (R111). -/
theorem Machine.State.offsetWord_toNat (s : State) : s.offsetWord.toNat = s.yOff.toNat * 65536 + s.xOff.toNat := by
  have hx := s.xOff.isLt
  have hy := s.yOff.isLt
  have hfit : s.yOff.toNat <<< 16 < 2 ^ 32 := by rw [Nat.shiftLeft_eq]; omega
  calc s.offsetWord.toNat
      = s.yOff.toNat <<< 16 ||| s.xOff.toNat := by
        simp only [State.offsetWord, BitVec.toNat_or, BitVec.toNat_shiftLeft, BitVec.toNat_setWidth]
        rw [Nat.mod_eq_of_lt (a := s.xOff.toNat) (by omega), Nat.mod_eq_of_lt (a := s.yOff.toNat) (by omega), Nat.mod_eq_of_lt hfit]
    _ = s.yOff.toNat * 65536 + s.xOff.toNat := by rw [← Nat.shiftLeft_add_eq_or_of_lt hx, Nat.shiftLeft_eq]

/-- Bits 31:21 of the META word are zero (R28). -/
theorem metaBits_reserved (t b : Index) (h : Bool) (d : BitVec 3) (l : Bool) : (metaBits t b h d l).extractLsb' 21 11 = 0 := by
  ext i hi
  have hd : d.getLsbD (21 + i - 17) = false := d.getLsbD_of_ge _ (by omega)
  have hb : b.getLsbD (21 + i - 8) = false := b.getLsbD_of_ge _ (by omega)
  have ht : t.getLsbD (21 + i) = false := t.getLsbD_of_ge _ (by omega)
  have hl : 21 + i - 20 ≠ 0 := by omega
  have hh : 21 + i - 16 ≠ 0 := by omega
  simp [metaBits, hd, hb, ht, hl, hh]

/-- A ROW step leaves the META register alone (R37). -/
theorem Machine.execRow_metaWord {s t : State} (h : execRow s = .next t) : t.metaWord = s.metaWord := by
  obtain ⟨-, rfl⟩ | ⟨-, es, -, rfl⟩ := execRow_next h <;> rfl

/-! ### The writes -/

/-- WR_STATUS keeps each error flag unless it is asked to clear it (R105). -/
theorem Machine.State.clearErrors_eq_ite (s : State) (cw cg : Bool) : s.clearErrors cw cg =
    { s with werr := if cw = true then false else s.werr, goerr := if cg = true then false else s.goerr } := by
  have keep : ∀ flag clear : Bool, (flag && !clear) = if clear = true then false else flag := by decide
  rw [State.clearErrors_eq, keep, keep]

/-- `s` with the row resources of `t` (R33). -/
def Machine.State.withRowResourcesOf (s t : State) : State :=
  { s with
    rowY := t.rowY, xOff := t.xOff, yOff := t.yOff, width := t.width, transpIdx := t.transpIdx, bgIdx := t.bgIdx,
    hasTransp := t.hasTransp, disposal := t.disposal, lastRow := t.lastRow, lut := t.lut, idx := t.idx }

/-- The store of a row-resource write is in the row resources alone (R108). -/
theorem Instr.rowStore_frame (i : Instr) (s : State) : i.rowStore s = s.withRowResourcesOf (i.rowStore s) := by
  cases i
  case wrIdx w b0 b1 b2 b3 =>
    rw [show (Instr.wrIdx w b0 b1 b2 b3).rowStore s = s.putIdx w b0 b1 b2 b3 from rfl, State.putIdx_eq]
    rfl
  all_goals rfl

/-! ### The obligations -/

/-- Settles O22: the guard sets WERR during the BUSY window and lets the store through while idle, and the store is in the row
resources alone. -/
theorem rowWriteGuard : Obligations.RowWriteGuard := fun i s h =>
  ⟨exec_rowWrite_busy h, fun hb => ⟨i.rowStore s, exec_rowWrite_idle h hb, i.rowStore_frame s⟩⟩

/-- Settles O12: the keys select the rows of the three operations, and the word that each answers is 0. -/
theorem readsReturningZero : Obligations.ReadsReturningZero :=
  ⟨fun _ h => decodeHT_of_key .RD_CTRL (by decide) h rfl,
    fun _ h => decodeHT_of_key .RD_IDX (by decide) h rfl,
    fun _ _ hr hm h => decodeHT_of_selected hr h (by rw [hm]; rfl),
    fun s _ _ => ⟨exec_of_isRead rfl s, exec_of_isRead rfl s, exec_of_isRead rfl s⟩⟩

/-- Settles O13: the word is the STATUS word, bit by bit. -/
theorem readStatusWord : Obligations.ReadStatusWord :=
  ⟨fun _ h => decodeHT_of_key .RD_STATUS (by decide) h rfl,
    fun s => ⟨s.statusWord, exec_rdStatus s, s.statusWord_bits⟩⟩

/-- Settles O14: ROW_Y and WIDTH are extended with zeros, and OFFSET is its two fields side by side. -/
theorem readRowRegisters : Obligations.ReadRowRegisters :=
  ⟨fun _ h => decodeHT_of_key .RD_ROW_Y (by decide) h rfl,
    fun _ h => decodeHT_of_key .RD_OFFSET (by decide) h rfl,
    fun _ h => decodeHT_of_key .RD_WIDTH (by decide) h rfl,
    fun s => ⟨s.rowY.setWidth 32, s.offsetWord, s.width.setWidth 32,
      exec_rdRowY s, BitVec.toNat_setWidth_of_le (by decide),
      exec_rdOffset s, s.offsetWord_toNat,
      exec_rdWidth s, BitVec.toNat_setWidth_of_le (by decide)⟩⟩

/-- Settles O15: the word is the META word, and a completed ROW step keeps the fields it is made of. -/
theorem readMetaWord : Obligations.ReadMetaWord :=
  ⟨fun _ h => decodeHT_of_key .RD_META (by decide) h rfl,
    fun s => ⟨s.metaWord, exec_rdMeta s, rfl, metaBits_reserved _ _ _ _ _,
      fun t ht => by rw [exec_rdMeta, execRow_metaWord ht]; rfl⟩⟩

/-- Settles O16: the word is the CAPS word, as a number. -/
theorem readCapsWord : Obligations.ReadCapsWord :=
  ⟨fun _ h => decodeHT_of_key .RD_CAPS (by decide) h rfl,
    fun s => ⟨s.capsWord, exec_rdCaps s, s.capsWord_toNat⟩⟩

/-- Settles O18: without a GO nothing happens, and a GO looks at BUSY alone. -/
theorem writeCtrlStartsRow : Obligations.WriteCtrlStartsRow :=
  ⟨fun _ h => decodeHT_of_key .WR_CTRL (by decide) h rfl,
    fun s => ⟨exec_wrCtrl false s, exec_go_idle, exec_go_busy⟩⟩

/-- Settles O19: the two clear bits are D[1] and D[2], and each clears its own flag. -/
theorem writeStatusClears : Obligations.WriteStatusClears :=
  ⟨fun _ h => decodeHT_of_key .WR_STATUS (by decide) h rfl,
    fun s cw cg => by rw [exec_wrStatus, State.clearErrors_eq_ite]⟩

/-- Settles O20: the keys select the rows of the two operations, which answer the state they were given. -/
theorem ignoredWrites : Obligations.IgnoredWrites :=
  ⟨fun _ _ hr hm h => decodeHT_of_selected hr h (by rw [hm]; rfl),
    fun _ h => decodeHT_of_key .WR_CAPS (by decide) h rfl,
    fun s a => ⟨exec_reservedWr a s, exec_wrCaps s⟩⟩

/-- Settles O21: the keys select the rows of the four writes, and each is a row-resource write behind the guard, its store made of
the fields named. -/
theorem writeRowRegisters : Obligations.WriteRowRegisters :=
  ⟨fun _ => ⟨fun h => decodeHT_of_key .WR_ROW_Y (by decide) h rfl, fun h => decodeHT_of_key .WR_OFFSET (by decide) h rfl,
      fun h => decodeHT_of_key .WR_WIDTH (by decide) h rfl, fun h => decodeHT_of_key .WR_META (by decide) h rfl⟩,
    fun _ _ _ _ _ _ _ _ _ _ =>
      ⟨fun hb => ⟨exec_rowWrite_idle rfl hb, exec_rowWrite_idle rfl hb, exec_rowWrite_idle rfl hb, exec_rowWrite_idle rfl hb⟩,
        fun hb => ⟨exec_rowWrite_busy rfl hb, exec_rowWrite_busy rfl hb, exec_rowWrite_busy rfl hb, exec_rowWrite_busy rfl hb⟩⟩⟩

end Sys2Proof
end

section
/-! The palette LUT (41_palette_lut.md): what a written entry reads as and what the other entries keep, and the two operations of the
LUT window (R130, R131) -/

namespace Sys2Proof

namespace Machine

/-! ### The entries after a write -/

@[simp] theorem State.lutAt_putLut_same (s : State) (n : Index) (c : Colour) : (s.putLut n c).lutAt n = some c := by
  rw [State.lutAt_putLut, if_pos rfl]

/-- Entries are independent: a write changes only entry `n` (R130). -/
theorem State.lutAt_putLut_ne (s : State) {n m : Index} (c : Colour) (h : m ≠ n) : (s.putLut n c).lutAt m = s.lutAt m := by
  rw [State.lutAt_putLut, if_neg h]

/-- A write sets the entry's written bit (R34). -/
@[simp] theorem State.lutWr_putLut_same (s : State) (n : Index) (c : Colour) : (s.putLut n c).lutWr n = true := by
  rw [State.lutWr, State.lutAt_putLut_same, Option.isSome_some]

/-! ### What the host reads from an entry -/

/-- A written entry gives its colour, and not the free value of an unwritten one (R131). -/
theorem State.lutOut_of_written {s : State} {n : Index} {c : Colour} (h : s.lutAt n = some c) : s.lutOut n = c := by
  rw [State.lutOut, h, Option.getD_some]

theorem exec_rdLut (n : Index) (s : State) : exec (.rdLut n) s = .next (s.respond ((s.lutOut n).setWidth 32)) := rfl

end Machine

open Machine

/-! ### The obligations -/

/-- Settles O23: the key selects the row of WR_LUT, a row-resource write behind the guard whose store is the write of entry `n`. -/
theorem writeLutEntry : Obligations.WriteLutEntry :=
  ⟨fun _ h => decodeHT_of_key .WR_LUT (by decide) h rfl,
    fun s n c =>
      ⟨fun hb => ⟨s.putLut n c, exec_rowWrite_idle rfl hb, s.lutAt_putLut_same n c, s.lutWr_putLut_same n c,
          fun _ hm => s.lutAt_putLut_ne c hm, rfl⟩,
        exec_rowWrite_busy rfl⟩⟩

/-- Settles O17: the key selects the row of RD_LUT, and the word is a colour extended with zeros, that of the entry where it has been
written. -/
theorem readLutEntry : Obligations.ReadLutEntry := by
  refine ⟨fun _ h => decodeHT_of_key .RD_LUT (by decide) h rfl, fun s n => ⟨(s.lutOut n).setWidth 32, exec_rdLut n s, ?_⟩⟩
  have hword : ((s.lutOut n).setWidth 32).toNat = (s.lutOut n).toNat := BitVec.toNat_setWidth_of_le (by decide)
  rw [hword]
  exact ⟨(s.lutOut n).isLt, fun _ hc => by rw [State.lutOut_of_written hc]⟩

end Sys2Proof
end

section
/-! The index buffer (42_index_buffer.md): what the columns of a written word hold, what the other columns keep, and the write of the
IDX window (R140) -/

namespace Sys2Proof

namespace Machine

/-! ### The columns after a write -/

/-- Lane `k` of the word, bits [8k+7 : 8k], is stored in column 4w + k below PANEL_W (R50, R140). -/
theorem State.idxAt_putIdx_lane (s : State) (w : BitVec 10) (d : Word) {k : Nat} (hk : k < 4) (hcol : 4 * w.toNat + k < s.panelW) :
    (s.putIdx w (d.extractLsb' 0 8) (d.extractLsb' 8 8) (d.extractLsb' 16 8) (d.extractLsb' 24 8)).idxAt (4 * w.toNat + k) =
      some (d.extractLsb' (8 * k) 8) := by
  simp only [State.idxAt_putIdx, hcol, true_and, Nat.add_eq_left, Nat.add_left_cancel_iff]
  obtain rfl | rfl | rfl | rfl : k = 0 ∨ k = 1 ∨ k = 2 ∨ k = 3 := by omega
  all_goals rfl

/-- A column of another word, or one past the panel, keeps what it held (R140). -/
theorem State.idxAt_putIdx_other (s : State) (w : BitVec 10) (b0 b1 b2 b3 : Index) {col : Nat}
    (h : col / 4 ≠ w.toNat ∨ s.panelW ≤ col) : (s.putIdx w b0 b1 b2 b3).idxAt col = s.idxAt col := by
  rw [State.idxAt_putIdx, if_neg (by omega), if_neg (by omega), if_neg (by omega), if_neg (by omega)]

/-- A word that no column of the panel backs is ignored (R71, R140). -/
theorem State.putIdx_unbacked {s : State} {w : BitVec 10} (b0 b1 b2 b3 : Index) (h : s.idxWords ≤ w.toNat) :
    s.putIdx w b0 b1 b2 b3 = s :=
  if_neg (Nat.not_lt.mpr h)

/-- The written bit of a column that holds an index is 1 (R34). -/
theorem State.idxWr_of_idxAt {s : State} {i : Nat} {n : Index} (h : s.idxAt i = some n) : s.idxWr i = true := by
  rw [State.idxWr, h, Option.isSome_some]

end Machine

open Machine

/-! ### The obligation -/

/-- Settles O24: the key selects the row of WR_IDX, a row-resource write behind the guard whose store is the write of word `w`'s four
lanes. -/
theorem writeIdxLanes : Obligations.WriteIdxLanes := by
  refine ⟨fun _ h => decodeHT_of_key .WR_IDX (by decide) h rfl, ?_⟩
  rintro s w d _ rfl
  refine ⟨fun hb => ⟨_, exec_rowWrite_idle rfl hb, s.putIdx_eq w _ _ _ _, fun k hk hcol => ?_,
    fun _ hcol => s.idxAt_putIdx_other w _ _ _ _ hcol, s.putIdx_unbacked _ _ _ _⟩, exec_rowWrite_busy rfl⟩
  have hlane := s.idxAt_putIdx_lane w d hk hcol
  exact ⟨hlane, State.idxWr_of_idxAt hlane⟩

end Sys2Proof
end

section
/-! The row compositor (43_row_compositor.md): the operands and the three classes of a column, the completed and the faulting row, its
write counts, and the source's run procedure (R150 to R163) -/

namespace Sys2Proof

namespace Machine

/-! ### The operands (R151 to R155) -/

/-- The restore test looks at DISPOSAL alone (R152). -/
theorem State.restore_iff (s : State) : s.restore = true ↔ s.disposal = 2 := by
  simp [State.restore, restoreBackground]

/-- Skipping needs HAS_TRANSP and no restore (R154). -/
theorem State.skipEnabled_iff (s : State) : s.skipEnabled = true ↔ s.hasTransp = true ∧ s.disposal ≠ 2 := by
  rw [State.skipEnabled, Bool.and_eq_true, Bool.not_eq_true', ← Bool.not_eq_true, State.restore_iff]

theorem State.effectiveIndex_restored {s : State} (h : s.disposal = 2) (n : Index) :
    s.effectiveIndex n = if n = s.transpIdx then s.bgIdx else n := by
  simp only [State.effectiveIndex_eq, h, true_and]

theorem State.effectiveIndex_kept {s : State} (h : s.disposal ≠ 2) (n : Index) : s.effectiveIndex n = n := by
  rw [State.effectiveIndex_eq, if_neg fun hd => h hd.1]

/-- A 16-bit offset in two's complement is its unsigned value, less 65536 where bit 15 is set (R26). -/
theorem toInt_eq_toNat_sub (x : BitVec 16) : x.toInt = x.toNat - 65536 * if x.getLsbD 15 = true then 1 else 0 := by
  rw [BitVec.toInt_eq_msb_cond, BitVec.msb_eq_getLsbD_last]
  split <;> simp_all

/-! ### The classes of a column (R158) -/

/-- The class of a column, its two tests in words of the registers (R157, R158). -/
theorem State.classify_eq (s : State) (i : Nat) (n : Index) :
    s.classify i n =
      if s.skipEnabled = true ∧ s.effectiveIndex n = s.transpIdx then .transparent
      else if 0 ≤ s.sinkX i ∧ s.sinkX i < s.panelW ∧ 0 ≤ s.sinkY ∧ s.sinkY < s.panelH then .written (s.effectiveIndex n)
      else .dropped := by
  simp only [State.classify, State.onPanel, Bool.and_eq_true, beq_iff_eq, decide_eq_true_eq]

/-- Only the effective index is written (R158). -/
theorem State.effectiveIndex_of_written {s : State} {i : Nat} {n m : Index} (h : s.classify i n = .written m) :
    m = s.effectiveIndex n := by
  rw [State.classify_eq] at h
  split_ifs at h
  exact (PixelClass.written.inj h).symm

/-- Where nothing is skipped no column is transparent (R154, R158). -/
theorem State.classify_ne_transparent {s : State} {i : Nat} {n : Index}
    (h : ¬ (s.skipEnabled = true ∧ s.effectiveIndex n = s.transpIdx)) : s.classify i n ≠ .transparent := by
  rw [State.classify_eq, if_neg h]
  split_ifs <;> simp

theorem State.isTransparent_iff {s : State} {i : Nat} :
    s.isTransparent i = true ↔ ∃ n, s.idxAt i = some n ∧ s.classify i n = .transparent := by
  unfold State.isTransparent
  cases s.idxAt i <;> simp

theorem State.isTransparent_eq_false {s : State} {i : Nat} (h : ∀ n, s.idxAt i = some n → s.classify i n ≠ .transparent) :
    s.isTransparent i = false := by
  refine Bool.eq_false_iff.mpr fun ht => ?_
  obtain ⟨n, hn, hc⟩ := State.isTransparent_iff.mp ht
  exact h n hn hc

theorem State.isTransparent_of_noSkip {s : State} (h : s.skipEnabled = false) (i : Nat) : s.isTransparent i = false :=
  State.isTransparent_eq_false fun _ _ => State.classify_ne_transparent (by simp [h])

/-- A column that does not hold TRANSP_IDX is opaque: where skipping is on, no index is rewritten to it (R163). -/
theorem State.isTransparent_of_idxAt_ne {s : State} {i : Nat} (h : s.idxAt i ≠ some s.transpIdx) : s.isTransparent i = false := by
  refine State.isTransparent_eq_false fun n hn => State.classify_ne_transparent ?_
  rintro ⟨hskip, heff⟩
  rw [State.effectiveIndex_kept (s.skipEnabled_iff.mp hskip).2] at heff
  exact h (heff ▸ hn)

/-- A column without a write issues nothing (R158). -/
theorem State.columnEvents_unwritten {s : State} {i : Nat} {n : Index} (hi : s.idxAt i = some n)
    (h : s.classify i n = .transparent ∨ s.classify i n = .dropped) : s.columnEvents i = .ok [] := by
  unfold State.columnEvents State.idxRead
  rcases h with h | h <;> simp only [hi, h]

/-- A written column issues one PIXEL_WRITE with its entry's colour (R158). -/
theorem State.columnEvents_written {s : State} {i : Nat} {n m : Index} {c : Colour} (hi : s.idxAt i = some n)
    (h : s.classify i n = .written m) (hc : s.lutAt m = some c) :
    s.columnEvents i = .ok [.pixelWrite (BitVec.ofInt 16 (s.sinkX i)) (BitVec.ofInt 16 s.sinkY) c] := by
  simp only [State.columnEvents, State.idxRead, State.lookup, hi, h, hc]

/-- A ready column is in one of the three classes, and what it issues is told by the class (R158). -/
theorem State.columnPixels_cases {s : State} {i : Nat} (h : s.columnReady i = true) :
    (s.isTransparent i = true ∧ s.isDropped i = false ∧ s.columnPixels i = []) ∨
    (s.isTransparent i = false ∧ s.isDropped i = true ∧ s.columnPixels i = []) ∨
    (s.isTransparent i = false ∧ s.isDropped i = false ∧ ∃ c, s.resolve i = some c ∧
      s.columnPixels i = [.pixelWrite (BitVec.ofInt 16 (s.sinkX i)) (BitVec.ofInt 16 s.sinkY) c]) := by
  obtain ⟨n, hn, ⟨hc, -⟩ | ⟨hc, -⟩ | ⟨m, c, hc, hm, -⟩⟩ := State.columnEvents_ready h
  · exact .inl (by simp [State.isTransparent, State.isDropped, State.columnPixels, hn, hc])
  · exact .inr (.inl (by simp [State.isTransparent, State.isDropped, State.columnPixels, hn, hc]))
  · have hres : s.resolve i = some c := by rw [← hm, State.effectiveIndex_of_written hc, State.resolve, hn]
    exact .inr (.inr (by simp [State.isTransparent, State.isDropped, State.columnPixels, hn, hc, hm, hres]))

/-- A column issues nothing but PIXEL_WRITEs. -/
theorem State.columnPixels_isPixel (s : State) (i : Nat) : ∀ e ∈ s.columnPixels i, e.isPixel = true := by
  unfold State.columnPixels
  repeat' split
  all_goals simp [SinkEvent.isPixel]

theorem State.loopPixels_isPixel (s : State) : ∀ e ∈ s.loopPixels, e.isPixel = true := by
  intro e he
  rw [State.loopPixels_eq_flatMap, List.mem_flatMap] at he
  obtain ⟨i, -, hi⟩ := he
  exact s.columnPixels_isPixel i e hi

/-! ### The completed row (R150) -/

theorem exec_row (s : State) : exec .row s = execRow s := rfl

theorem State.rowReady_iff (s : State) : s.rowReady = true ↔ ∀ i < s.wEff, s.columnReady i = true := by
  simp only [State.rowReady, List.all_eq_true, List.mem_range]

/-- What the host has to have written for a column (R156). -/
theorem State.columnReady_iff (s : State) (i : Nat) :
    s.columnReady i = true ↔ ∃ n, s.idxAt i = some n ∧ ∀ m, s.classify i n = .written m → s.lutWr m = true := by
  unfold State.columnReady
  cases s.idxAt i with
  | none => simp
  | some n => cases hc : s.classify i n <;> simp [hc]

section
variable {s t : State}

/-- A ready pending row issues the loop's pixels and PRESENT for the last row, and clears BUSY (R150). -/
theorem exec_row_ready (hb : s.busy = true) (hr : s.rowReady = true) :
    exec .row s = .next { s with
      busy := false, events := s.events ++ s.loopPixels ++ (if s.lastRow = true then [SinkEvent.present] else []) } :=
  execRow_of_rowPixels hb (State.rowPixels_eq_loopPixels hr)

/-- A pending row that completes was ready. -/
theorem rowReady_of_exec_row (hb : s.busy = true) (h : exec .row s = .next t) : s.rowReady = true := by
  obtain ⟨hidle, -⟩ | ⟨-, es, hes, -⟩ := execRow_next h
  · rw [hb] at hidle
    cases hidle
  · exact (State.rowPixels_ok_inv hes).1

theorem exec_row_next (hb : s.busy = true) (h : exec .row s = .next t) :
    t = { s with
      busy := false, events := s.events ++ s.loopPixels ++ (if s.lastRow = true then [SinkEvent.present] else []) } := by
  rw [exec_row_ready hb (rowReady_of_exec_row hb h)] at h
  exact (Host.Outcome.next.inj h).symm

/-- The PIXEL_WRITEs among a completed row's events are the loop's. -/
theorem State.filter_isPixel_rowEvents (s : State) :
    (s.loopPixels ++ (if s.lastRow = true then [SinkEvent.present] else [])).filter SinkEvent.isPixel = s.loopPixels := by
  rw [List.filter_append, List.filter_eq_self.mpr s.loopPixels_isPixel]
  split_ifs <;> simp [SinkEvent.isPixel]

/-- No host transaction is ROW (R150). -/
theorem decodeHT_ne_row (ht : HT) : decodeHT ht ≠ .row := by
  intro hrow
  have hcases := decodeHT_cases ht
  rw [hrow] at hcases
  rcases hcases with h | h | ⟨go, h⟩ | ⟨cw, cg, h⟩ | h | ⟨w, h⟩ <;> cases h

/-! ### The faulting row (R156) -/

/-- The columns before one that stands in a range are all the smaller ones. -/
theorem mem_of_lt_of_range_eq {n i j : Nat} {pre post : List Nat} (h : List.range n = pre ++ i :: post) (hj : j < i) : j ∈ pre := by
  rw [List.range_eq_range', List.range'_eq_append_iff] at h
  obtain ⟨k, -, rfl, hpost⟩ := h
  obtain ⟨rfl, -⟩ := List.range'_eq_cons_iff.mp hpost.symm
  exact List.mem_range'_1.mpr ⟨Nat.zero_le j, by omega⟩

/-- A pending row that is not ready faults on its first column that is not, with that column's fault. -/
theorem exec_row_unready (hb : s.busy = true) (hr : s.rowReady = false) :
    ∃ i f, i < s.wEff ∧ (∀ j < i, s.columnReady j = true) ∧ s.columnEvents i = .error f ∧ exec .row s = .fault f := by
  cases hp : s.rowPixels with
  | ok es =>
    rw [(State.rowPixels_ok_inv hp).1] at hr
    cases hr
  | error f =>
    obtain ⟨pre, i, post, his, hpre, hi⟩ := State.columnsEvents_error_inv hp
    have hmem : i ∈ List.range s.wEff := by simp [his]
    exact ⟨i, f, List.mem_range.mp hmem, fun j hj => hpre j (mem_of_lt_of_range_eq his hj), hi, (execRow_fault_iff hb f).mpr hp⟩

/-- The fault of a column names the entry that it reads and that has not been written. -/
theorem State.columnEvents_error {i : Nat} {f : Fault} (h : s.columnEvents i = .error f) :
    (s.idxWr i = false ∧ f = .unwrittenIDX i) ∨
    ∃ n m, s.idxAt i = some n ∧ s.classify i n = .written m ∧ s.lutWr m = false ∧ f = .unwrittenLUT m := by
  have hready : s.columnReady i = false := by
    refine Bool.eq_false_iff.mpr fun hr => ?_
    rw [State.columnEvents_eq_columnPixels hr] at h
    cases h
  obtain ⟨hi, he⟩ | ⟨n, m, hi, hc, hm, he⟩ := State.columnEvents_unready hready
  · exact .inl ⟨by simp [State.idxWr, hi], Except.error.inj (h.symm.trans he)⟩
  · exact .inr ⟨n, m, hi, hc, by simp [State.lutWr, hm], Except.error.inj (h.symm.trans he)⟩

/-! ### The write counts (R161) -/

/-- Every ready column is one write, or transparent, or dropped. -/
theorem State.length_columnPixels_add {is : List Nat} (h : ∀ i ∈ is, s.columnReady i = true) :
    (is.flatMap s.columnPixels).length + (is.filter s.isTransparent).length + (is.filter s.isDropped).length = is.length := by
  induction is with
  | nil => rfl
  | cons i is ih =>
    have ih := ih fun j hj => h j (List.mem_cons_of_mem _ hj)
    rw [List.length_flatMap] at ih ⊢
    rcases State.columnPixels_cases (h i List.mem_cons_self) with ⟨ht, hd, hp⟩ | ⟨ht, hd, hp⟩ | ⟨ht, hd, c, -, hp⟩ <;>
      simp [ht, hd, hp] <;> omega

/-- Where every column is written, the colours are those of the effective indices, in column order. -/
theorem State.map_colour_columnPixels {is : List Nat} (hr : ∀ i ∈ is, s.columnReady i = true)
    (ht : ∀ i ∈ is, s.isTransparent i = false) (hd : ∀ i ∈ is, s.isDropped i = false) :
    (is.flatMap s.columnPixels).map SinkEvent.colour = is.map s.resolve := by
  rw [List.map_flatMap, List.map_eq_flatMap]
  refine List.flatMap_congr fun i hi => ?_
  rcases State.columnPixels_cases (hr i hi) with ⟨ht', -⟩ | ⟨-, hd', -⟩ | ⟨-, -, c, hres, hp⟩
  · rw [ht i hi] at ht'
    cases ht'
  · rw [hd i hi] at hd'
    cases hd'
  · rw [hp, hres]
    rfl

/-- A transparent column issues nothing. -/
theorem State.columnPixels_transparent {i : Nat} (h : s.isTransparent i = true) : s.columnPixels i = [] := by
  obtain ⟨n, hn, hc⟩ := State.isTransparent_iff.mp h
  simp only [State.columnPixels, hn, hc]

end

/-! ### The runs of a row (R160) -/

section
variable (p : Nat → Bool)

/-- The first opaque run of a list of columns and the transparent run after it. -/
def firstPair (l : List Nat) : List Nat × List Nat :=
  (l.takeWhile fun i => !p i, (l.dropWhile fun i => !p i).takeWhile p)

/-- The columns after the first pair of runs. -/
def afterPair (l : List Nat) : List Nat := (l.dropWhile fun i => !p i).dropWhile p

theorem runPairs_cons (fuel c : Nat) (cs : List Nat) :
    runPairs p (fuel + 1) (c :: cs) = firstPair p (c :: cs) :: runPairs p fuel (afterPair p (c :: cs)) := rfl

theorem firstPair_append_afterPair (l : List Nat) : (firstPair p l).1 ++ (firstPair p l).2 ++ afterPair p l = l := by
  simp only [firstPair, afterPair, List.append_assoc, List.takeWhile_append_dropWhile]

variable {p}

theorem firstPair_opaque {l : List Nat} : ∀ i ∈ (firstPair p l).1, p i = false := fun i hi => by
  simpa using List.mem_takeWhile_imp hi

theorem firstPair_transparent {l : List Nat} : ∀ i ∈ (firstPair p l).2, p i = true := fun _ hi => List.mem_takeWhile_imp hi

/-- A list that begins with an opaque column begins with an opaque run. -/
theorem firstPair_fst_ne_nil {c : Nat} {cs : List Nat} (h : p c = false) : (firstPair p (c :: cs)).1 ≠ [] := by
  simp [firstPair, h]

/-- The first pair takes a column of its list. -/
theorem length_afterPair_le (c : Nat) (cs : List Nat) : (afterPair p (c :: cs)).length ≤ cs.length := by
  unfold afterPair
  cases hc : p c with
  | true => simpa [hc] using List.length_dropWhile_le p cs
  | false => simpa [hc] using (List.length_dropWhile_le p _).trans (List.length_dropWhile_le _ cs)

/-- What is left after the first pair begins with an opaque column. -/
theorem afterPair_head {l : List Nat} {d : Nat} {ds : List Nat} (h : afterPair p l = d :: ds) : p d = false := by
  have hhead := List.head?_dropWhile_not p (l.dropWhile fun i => !p i)
  rw [show List.dropWhile p _ = d :: ds from h] at hhead
  simpa using hhead

/-- Where columns are left after the first pair, a transparent run stands between. -/
theorem firstPair_snd_ne_nil {l : List Nat} (h : afterPair p l ≠ []) : (firstPair p l).2 ≠ [] := by
  have hhead := List.head?_dropWhile_not (fun i => !p i) l
  unfold afterPair at h
  unfold firstPair
  cases hl : l.dropWhile fun i => !p i with
  | nil => simp [hl] at h
  | cons c cs =>
    rw [hl] at hhead
    have hc : p c = true := by simpa using hhead
    simp [hc]

/-- The runs put together are the columns they were cut from. -/
theorem flatMap_runPairs {fuel : Nat} {l : List Nat} (h : l.length ≤ fuel) :
    (runPairs p fuel l).flatMap (fun r => r.1 ++ r.2) = l := by
  induction fuel generalizing l with
  | zero => rw [List.length_eq_zero_iff.mp (Nat.le_zero.mp h)]; rfl
  | succ fuel ih =>
    cases l with
    | nil => rfl
    | cons c cs =>
      have hle : (afterPair p (c :: cs)).length ≤ fuel := (length_afterPair_le c cs).trans (Nat.le_of_succ_le_succ h)
      rw [runPairs_cons, List.flatMap_cons, ih hle, firstPair_append_afterPair]

/-- The first run of each pair is opaque and the second transparent. -/
theorem runPairs_classes {fuel : Nat} {l : List Nat} :
    ∀ r ∈ runPairs p fuel l, (∀ i ∈ r.1, p i = false) ∧ (∀ i ∈ r.2, p i = true) := by
  induction fuel generalizing l with
  | zero => intro r hr; cases hr
  | succ fuel ih =>
    cases l with
    | nil => intro r hr; cases hr
    | cons c cs =>
      rw [runPairs_cons]
      intro r hr
      rcases List.mem_cons.mp hr with rfl | hr
      · exact ⟨firstPair_opaque, firstPair_transparent⟩
      · exact ih r hr

/-- Two pairs in a row are parted by runs that are not empty: no run could be made longer. -/
theorem runPairs_maximal (fuel : Nat) (l : List Nat) :
    (runPairs p fuel l).IsChain (fun a b => a.2 ≠ [] ∧ b.1 ≠ []) := by
  induction fuel generalizing l with
  | zero => exact .nil
  | succ fuel ih =>
    cases l with
    | nil => exact .nil
    | cons c cs =>
      rw [runPairs_cons]
      refine (ih _).cons fun b hb => ?_
      cases hrest : afterPair p (c :: cs) with
      | nil => cases fuel <;> simp [hrest, runPairs] at hb
      | cons d ds =>
        cases fuel with
        | zero => simp [runPairs] at hb
        | succ fuel =>
          rw [hrest, runPairs_cons, List.head?_cons, Option.mem_some_iff] at hb
          subst hb
          exact ⟨firstPair_snd_ne_nil (by simp [hrest]), firstPair_fst_ne_nil (afterPair_head hrest)⟩

end

section
variable (s : State)

theorem State.flatMap_runs : s.runs.flatMap (fun r => r.1 ++ r.2) = List.range s.wEff :=
  flatMap_runPairs (by rw [List.length_range])

theorem State.sum_length_runs : (s.runs.map fun r => r.1.length + r.2.length).sum = s.wEff := by
  simpa [List.length_flatMap] using congrArg List.length s.flatMap_runs

variable {s}

/-- An opaque column resolved and flushed issues its pixels (R157, R160). -/
theorem State.flush_resolve {i : Nat} (h : s.isTransparent i = false) : s.flush [(i, s.resolve i)] = s.columnPixels i := by
  rw [State.flush, List.flatMap_singleton]
  unfold State.resolve State.columnPixels
  cases hi : s.idxAt i with
  | none => rfl
  | some n =>
    have hopaque : ¬ (s.skipEnabled && s.effectiveIndex n == s.transpIdx) = true := fun hskip =>
      Bool.eq_false_iff.mp h (State.isTransparent_iff.mpr ⟨n, hi, by rw [State.classify, if_pos hskip]⟩)
    simp only [State.classify, if_neg hopaque]
    cases hc : s.lutAt (s.effectiveIndex n) <;> split_ifs <;> simp only [hc]

/-- An opaque run resolved and flushed issues the pixels of its columns. -/
theorem State.flush_scratch {run : List Nat} (h : ∀ i ∈ run, s.isTransparent i = false) :
    s.flush (s.scratch run) = run.flatMap s.columnPixels := by
  rw [State.scratch, State.flush, List.flatMap_map]
  refine List.flatMap_congr fun i hi => ?_
  rw [← State.flush_resolve (h i hi), State.flush, List.flatMap_singleton]

/-- The run procedure issues the pixels of the per-column loop (R160). -/
theorem State.runProcedure_eq_loopPixels : s.runProcedure = s.loopPixels := by
  rw [State.runProcedure, State.loopPixels_eq_flatMap, ← s.flatMap_runs, List.flatMap_assoc]
  refine List.flatMap_congr fun r hr => ?_
  obtain ⟨hopaque, htransparent⟩ := runPairs_classes r hr
  have hskipped : r.2.flatMap s.columnPixels = [] :=
    List.flatMap_eq_nil_iff.mpr fun i hi => State.columnPixels_transparent (htransparent i hi)
  rw [State.flush_scratch hopaque, List.flatMap_append, hskipped, List.append_nil]

end

end Machine

open Machine

/-! ### The obligations -/

/-- Settles O28: a ready row issues the loop's pixels, a row that is not ready has a first column that faults, no transaction decodes
to ROW, and a column that does not hold TRANSP_IDX is opaque. -/
theorem rowIssuesItsPixels : Obligations.RowIssuesItsPixels := by
  refine ⟨fun s hb hr => exec_row_ready hb hr, fun s hb hr => ?_, decodeHT_ne_row,
    fun s h i hi => State.isTransparent_of_idxAt_ne (h i hi)⟩
  obtain ⟨i, f, -, -, -, hf⟩ := exec_row_unready hb hr
  exact ⟨f, hf⟩

/-- Settles O29: the loop stops at its first column that is not ready, whose fault names the entry it lacks, and completes where every
column is ready. -/
theorem rowFaultsOnFirstUnwritten : Obligations.RowFaultsOnFirstUnwritten := by
  refine fun s hb => ⟨fun hr => ?_, fun t ht i hi => ?_, fun h => ?_⟩
  · obtain ⟨i, f, hi, hbefore, he, hf⟩ := exec_row_unready hb hr
    refine ⟨i, hi, hbefore, ?_⟩
    obtain ⟨hidx, rfl⟩ | ⟨n, m, hn, hc, hm, rfl⟩ := State.columnEvents_error he
    · exact .inl ⟨hidx, hf⟩
    · exact .inr ⟨n, m, hn, hc, hm, hf⟩
  · exact (s.columnReady_iff i).mp (s.rowReady_iff.mp (rowReady_of_exec_row hb ht) i hi)
  · exact ⟨_, exec_row_ready hb (s.rowReady_iff.mpr fun i hi => (s.columnReady_iff i).mpr (h i hi))⟩

/-- Settles O30: the two tests fix the class, and the class what the column issues. -/
theorem columnClasses : Obligations.ColumnClasses := by
  refine fun s i n hn => ⟨fun hskip => ?_, fun hskip hoff => ?_, fun hskip hon c hc => ?_⟩
  · exact State.columnEvents_unwritten hn (.inl (by rw [State.classify_eq, if_pos hskip]))
  · exact State.columnEvents_unwritten hn (.inr (by rw [State.classify_eq, if_neg hskip, if_neg hoff]))
  · exact State.columnEvents_written hn (by rw [State.classify_eq, if_neg hskip, if_pos hon]) hc

/-- Settles O31: the clamp is a minimum, the restore test decides the rewrite and the skipping, and a sign-extended offset differs
from its bits by 65536 at most. -/
theorem rowOperandRules : Obligations.RowOperandRules := fun s n i =>
  ⟨Nat.min_def, s.restore_iff, fun h => State.effectiveIndex_restored h n, fun h => State.effectiveIndex_kept h n,
    s.skipEnabled_iff, ⟨_, by rw [State.sinkX, toInt_eq_toNat_sub], rfl⟩, ⟨_, by rw [State.sinkY, toInt_eq_toNat_sub], rfl⟩⟩

/-- Settles O32: the loop is a function of what the two states share, and the step changes nothing of that. -/
theorem rowDependsOnlyOnResources : Obligations.RowDependsOnlyOnResources := by
  refine fun s t h hb hb' => ⟨fun s' hs => ?_, fun f hf => ?_⟩
  · have hloop : t.rowPixels = .ok s.loopPixels :=
      h.rowPixels_eq ▸ State.rowPixels_eq_loopPixels (rowReady_of_exec_row hb hs)
    have hlast : s.lastRow = t.lastRow := by
      obtain ⟨-, -, -, -, -, -, -, -, hl, -⟩ := h
      exact hl
    obtain rfl := exec_row_next hb hs
    refine ⟨_, _, List.append_assoc _ _ _, execRow_of_rowPixels hb' hloop, ?_, h, rfl⟩
    rw [hlast, List.append_assoc]
  · rw [exec_row, execRow_fault_iff hb', ← h.rowPixels_eq]
    exact (execRow_fault_iff hb f).mp hf

/-- Settles O33: the writes are the loop's, and each column is a write with its own colour, or transparent, or dropped. -/
theorem rowWriteCounts : Obligations.RowWriteCounts := by
  intro s t hb h
  have hready : ∀ i ∈ List.range s.wEff, s.columnReady i = true := fun i hi =>
    s.rowReady_iff.mp (rowReady_of_exec_row hb h) i (List.mem_range.mp hi)
  refine ⟨_, (congrArg State.events (exec_row_next hb h)).trans (List.append_assoc _ _ _), ?_⟩
  rw [s.filter_isPixel_rowEvents, State.loopPixels_eq_flatMap]
  refine ⟨fun hskip hdrop => ?_, fun _ htransp => ?_, fun hzero => ?_, ?_⟩
  · have hcolours := State.map_colour_columnPixels hready (fun i _ => State.isTransparent_of_noSkip hskip i)
      fun i hi => hdrop i (List.mem_range.mp hi)
    exact ⟨by simpa using congrArg List.length hcolours, hcolours⟩
  · exact List.flatMap_eq_nil_iff.mpr fun i hi => State.columnPixels_transparent (htransp i (List.mem_range.mp hi))
  · rw [hzero]
    rfl
  · exact (State.length_columnPixels_add hready).trans List.length_range

/-- Settles O34: the loop issues PIXEL_WRITEs alone, and PRESENT comes after it. -/
theorem rowPresentLast : Obligations.RowPresentLast := by
  intro s t hb h
  obtain rfl := exec_row_next hb h
  exact ⟨s.loopPixels, s.loopPixels_isPixel, fun hl => by simp [hl], fun hl => by simp [hl]⟩

/-- Settles O36: each pair of runs is cut off the front of the columns left, and a transparent run contributes nothing to the loop. -/
theorem runProcedureMatchesColumnLoop : Obligations.RunProcedureMatchesColumnLoop := by
  refine ⟨fun s => ⟨s.flatMap_runs, s.sum_length_runs, runPairs_classes, fun pre a b post hruns => ?_⟩, fun s t hb h => ?_⟩
  · exact List.isChain_iff_forall_rel_of_append_cons_cons.mp (runPairs_maximal _ _) hruns
  · rw [State.runProcedure_eq_loopPixels, exec_row_next hb h]

end Sys2Proof
end

section
/-! Encoding (30_encoding.md): the fields of the encoder's data words, the round trip, the operands of a transaction, the sink event
words and the host script (R70 to R78) -/

namespace Sys2Proof

open Machine

/-! ### The fields of the words the encoder makes (R50, R73, R74) -/

/-- OFFSET's fields at their bit positions, Y_OFF above X_OFF (R26). -/
def offsetBits (x y : BitVec 16) : Word := y.setWidth 32 <<< 16 ||| x.setWidth 32

theorem encode_wrOffset (x y : BitVec 16) : encode (.wrOffset x y) = encodeWrite 3 (offsetBits x y) := rfl

theorem offsetBits_fields (x y : BitVec 16) :
    (offsetBits x y).extractLsb' 0 16 = x ∧ (offsetBits x y).extractLsb' 16 16 = y := by
  unfold offsetBits
  constructor <;> ext i hi <;> simp <;> grind

theorem metaBits_fields (t b : Index) (h : Bool) (d : BitVec 3) (l : Bool) :
    (metaBits t b h d l).extractLsb' 0 8 = t ∧ (metaBits t b h d l).extractLsb' 8 8 = b ∧
    (metaBits t b h d l).getLsbD 16 = h ∧ (metaBits t b h d l).extractLsb' 17 3 = d ∧ (metaBits t b h d l).getLsbD 20 = l := by
  unfold metaBits
  refine ⟨?_, ?_, by simp, ?_, by simp⟩ <;> ext i hi <;> simp <;> grind

theorem laneBits_fields (b0 b1 b2 b3 : Index) :
    (laneBits b0 b1 b2 b3).extractLsb' 0 8 = b0 ∧ (laneBits b0 b1 b2 b3).extractLsb' 8 8 = b1 ∧
    (laneBits b0 b1 b2 b3).extractLsb' 16 8 = b2 ∧ (laneBits b0 b1 b2 b3).extractLsb' 24 8 = b3 := by
  unfold laneBits
  refine ⟨?_, ?_, ?_, ?_⟩ <;> ext i hi <;> simp <;> grind

/-- A field of 16 bits at the bottom of a word. -/
theorem setWidth_field (c : BitVec 16) : (c.setWidth 32).extractLsb' 0 16 = c := by
  ext i hi
  simp
  grind

/-- The fields of a sink event word with TYPE = 0 at their bit positions (R74). -/
def pixelBits (x y : Coord) (c : Colour) : SE := x.setWidth 49 <<< 32 ||| y.setWidth 49 <<< 16 ||| c.setWidth 49

theorem encode_pixelWrite (x y : Coord) (c : Colour) : encode (.pixelWrite x y c) = .sinkEvent (pixelBits x y c) := rfl

theorem pixelBits_fields (x y : Coord) (c : Colour) :
    (pixelBits x y c).getLsbD 48 = false ∧ (pixelBits x y c).extractLsb' 32 16 = x ∧
    (pixelBits x y c).extractLsb' 16 16 = y ∧ (pixelBits x y c).extractLsb' 0 16 = c := by
  unfold pixelBits
  refine ⟨by simp, ?_, ?_, ?_⟩ <;> ext i hi <;> simp <;> grind

/-- A sink event word with TYPE = 0 is its three fields (R74). -/
theorem pixelBits_of_fields {se : SE} (h : se.getLsbD 48 = false) :
    pixelBits (se.extractLsb' 32 16) (se.extractLsb' 16 16) (se.extractLsb' 0 16) = se := by
  ext i hi
  simp [pixelBits]
  grind

/-- A sink event word with TYPE = 1 and no payload is TYPE alone (R74). -/
theorem eq_presentBits {se : SE} (h : se.getLsbD 48 = true) (hp : se.extractLsb' 0 48 = 0) : 1#49 <<< 48 = se := by
  ext i hi
  rw [← BitVec.twoPow_eq, BitVec.getElem_twoPow, ← BitVec.getLsbD_eq_getElem]
  obtain hlt | rfl : i < 48 ∨ i = 48 := by omega
  · have hbit := congrArg (BitVec.getLsbD · i) hp
    simpa [hlt, hlt.ne] using hbit
  · simp only [h, decide_true]

/-! ### The event of a sink event word (R74, R76) -/

theorem decodeSE_pixelWrite {se : SE} (h : se.getLsbD 48 = false) :
    decodeSE se = .ok (.pixelWrite (se.extractLsb' 32 16) (se.extractLsb' 16 16) (se.extractLsb' 0 16)) := by
  rw [decodeSE, h, if_neg Bool.false_ne_true]

theorem decodeSE_present {se : SE} (h : se.getLsbD 48 = true) (hp : se.extractLsb' 0 48 = 0) : decodeSE se = .ok .present := by
  rw [decodeSE, if_pos h, if_pos hp]

theorem decodeSE_payload {se : SE} (h : se.getLsbD 48 = true) (hp : se.extractLsb' 0 48 ≠ 0) :
    decodeSE se = .error (.presentPayload se) := by
  rw [decodeSE, if_pos h, if_neg hp]

/-! ### Decoding what the encoder made -/

theorem decode_encodeRead (word : BitVec 12) : decode (encodeRead word) = .ok (decodeRead (wordAddr word)) := by
  simp only [encodeRead, decode, decodeHT_htMake_read]

theorem decode_encodeWrite (word : BitVec 12) (d : Word) :
    decode (encodeWrite word d) = .ok (decodeWrite (wordAddr word) d) := by
  simp only [encodeWrite, decode, decodeHT_htMake_write]

/-- Decoding undoes encoding: the address map takes the encoder's word address back to its place, and each operand is the field of the
data word that it was put in (R70 to R74). -/
theorem decode_encode {i : Instr} (h : i.wellFormed = true) : decode (encode i) = .ok i := by
  cases i with
  | rdCtrl | rdStatus | rdRowY | rdOffset | rdWidth | rdMeta | rdCaps | wrCaps | row | present => rfl
  | wrCtrl go => cases go <;> rfl
  | wrStatus cw cg => cases cw <;> cases cg <;> rfl
  | wrRowY y => simp only [encode, decode_encodeWrite, decodeWrite, addressMap_rowY (a := wordAddr 2) rfl, setWidth_field]
  | wrOffset x y =>
    simp only [encode_wrOffset, decode_encodeWrite, decodeWrite, addressMap_offset (a := wordAddr 3) rfl, offsetBits_fields]
  | wrWidth w => simp only [encode, decode_encodeWrite, decodeWrite, addressMap_width (a := wordAddr 4) rfl, setWidth_field]
  | wrMeta t b h d l =>
    simp only [encode, decode_encodeWrite, decodeWrite, addressMap_metaWord (a := wordAddr 5) rfl, metaBits_fields]
  | rdLut n => simp only [encode, decode_encodeRead, decodeRead, addressMap_lutWord]
  | wrLut n c => simp only [encode, decode_encodeWrite, decodeWrite, addressMap_lutWord, setWidth_field]
  | rdIdx w => simp only [encode, decode_encodeRead, decodeRead, addressMap_idxWord]
  | wrIdx w b0 b1 b2 b3 => simp only [encode, decode_encodeWrite, decodeWrite, addressMap_idxWord, laneBits_fields]
  | reservedRd a => simp only [encode, decode_encodeRead, decodeRead, addressMap_unmappedWord h]
  | reservedWr a => simp only [encode, decode_encodeWrite, decodeWrite, addressMap_unmappedWord h]
  | pixelWrite x y c =>
    obtain ⟨htype, hx, hy, hc⟩ := pixelBits_fields x y c
    rw [encode_pixelWrite, decode, decodeSE_pixelWrite htype, hx, hy, hc]

/-- A transaction that is the encoding of a well-formed operation decodes to it. -/
theorem decodeHT_of_encode {i : Instr} {ht : HT} (hi : i.wellFormed = true) (h : encode i = .transaction ht) : decodeHT ht = i := by
  have hdecode := decode_encode hi
  rw [h] at hdecode
  exact Except.ok.inj hdecode

/-- Settles O2, case by case over the operations: the address map and the fields undo what the encoder put together. -/
theorem decodeEncodeRoundTrip : Obligations.DecodeEncodeRoundTrip := fun _ => decode_encode

/-! ### What a transaction decodes to (R72, R75) -/

theorem decodeRead_wellFormed (a : Addr) : (decodeRead a).wellFormed = true := by
  unfold decodeRead
  cases hp : addressMap a with
  | unmapped w => exact (addressMap_unmapped hp).2
  | _ => rfl

theorem decodeWrite_wellFormed (a : Addr) (d : Word) : (decodeWrite a d).wellFormed = true := by
  unfold decodeWrite
  cases hp : addressMap a with
  | unmapped w => exact (addressMap_unmapped hp).2
  | _ => rfl

/-- Every transaction is a well-formed operation (R75). -/
theorem decodeHT_wellFormed (ht : HT) : (decodeHT ht).wellFormed = true := by
  unfold decodeHT
  cases htWrite ht with
  | true => exact decodeWrite_wellFormed _ _
  | false => exact decodeRead_wellFormed _

/-- No place of the address map is the engine's operation or one of the sink's. -/
theorem Place.mnemonic_isHost (w : Bool) (p : Place) :
    p.mnemonic w ≠ .ROW ∧ p.mnemonic w ≠ .PIXEL_WRITE ∧ p.mnemonic w ≠ .PRESENT := by
  cases w <;> cases p <;> simp [Place.mnemonic]

/-- No transaction is an operation of the engine or of the sink (R75). -/
theorem decodeHT_isHost (ht : HT) :
    (decodeHT ht).mnemonic ≠ .ROW ∧ (decodeHT ht).mnemonic ≠ .PIXEL_WRITE ∧ (decodeHT ht).mnemonic ≠ .PRESENT := by
  rw [decodeHT_mnemonic]
  exact Place.mnemonic_isHost _ _

/-- Settles O3: only an unmapped word has a check to pass, and the address map passes it; the mnemonic is that of the place. -/
theorem everyTransactionDecodesWellFormed : Obligations.EveryTransactionDecodesWellFormed := fun ht =>
  ⟨decodeHT ht, rfl, decodeHT_wellFormed ht, decodeHT_isHost ht⟩

/-- Settles O6: the address map at each operation's addresses, and the operands that the decoder takes there. -/
theorem operandsTakenFromTransaction : Obligations.OperandsTakenFromTransaction := by
  intro a d
  simp only [decodeHT_htMake_write, decodeHT_htMake_read, decodeWrite, decodeRead]
  refine ⟨fun h => ?_, fun h => ?_, fun h => ?_, fun h => ?_, fun h => ?_, fun h => ?_, fun hlo hhi => ?_, fun hlo hhi => ?_⟩
  · rw [addressMap_ctrl h]
  · rw [addressMap_status h]
  · rw [addressMap_rowY h]
  · rw [addressMap_offset h]
  · rw [addressMap_width h]
  · rw [addressMap_metaWord h]
  · simp only [addressMap_lut (show a.toNat / 1024 = 1 by omega), and_self]
  · rw [addressMap_idx (show a.toNat / 4096 = 1 by omega)]

/-- Settles O7: TYPE picks the event, whose fields make up the word again, and TYPE = 1 with a payload has none. -/
theorem sinkEventWordsDecode : Obligations.SinkEventWordsDecode := by
  refine fun se => ⟨fun htype => ⟨decodeSE_pixelWrite htype, ?_⟩, fun htype hpay => ⟨decodeSE_present htype hpay, ?_⟩,
    fun htype hpay i => ?_⟩
  · rw [encode_pixelWrite, pixelBits_of_fields htype]
  · rw [encode, eq_presentBits htype hpay]
  · rw [decode, decodeSE_payload htype hpay]
    exact nofun

/-- Settles O1, word by word. -/
theorem specWordsDecode : Obligations.SpecWordsDecode :=
  ⟨rfl, rfl, rfl, rfl, rfl, rfl, rfl, rfl, rfl⟩

/-! ### The host script (R77, R78) -/

theorem Machine.Script.LUT_toNat (n : Index) : Script.LUT n.toNat = wordAddr (lutWord n) := by
  have hn := n.isLt
  apply BitVec.eq_of_toNat_eq
  rw [wordAddr_toNat, lutWord_toNat, Script.LUT, BitVec.toNat_ofNat]
  omega

theorem Machine.Script.IDX_toNat (w : BitVec 10) : Script.IDX w.toNat = wordAddr (idxWord w) := by
  have hw := w.isLt
  apply BitVec.eq_of_toNat_eq
  rw [wordAddr_toNat, idxWord_toNat, Script.IDX, BitVec.toNat_ofNat]
  omega

theorem encode_wrLut (n : Index) (c : Colour) : encode (.wrLut n c) = .transaction (Script.setPal n c) := by
  rw [Script.setPal, Script.LUT_toNat]
  rfl

theorem encode_wrIdx (w : BitVec 10) (b0 b1 b2 b3 : Index) :
    encode (.wrIdx w b0 b1 b2 b3) = .transaction (Script.setIdx w b0 b1 b2 b3) := by
  rw [Script.setIdx, Script.IDX_toNat]
  rfl

/-- POLL is one or more reads of its address (R78). -/
theorem Machine.Script.poll_reads (a : Addr) (n : Nat) : (Script.poll a n).length = n + 1 ∧
    ∀ ht ∈ Script.poll a n, ht = htMake false a 0 ∧ decodeHT ht = decodeRead a := by
  refine ⟨List.length_replicate, fun ht hmem => ?_⟩
  obtain rfl : ht = htMake false a 0 := List.eq_of_mem_replicate hmem
  exact ⟨rfl, decodeHT_htMake_read a 0⟩

/-- Settles O8: each pseudo-operation that is one transaction is the encoding of its operation, and POLL repeats a read. -/
theorem pseudoOperationsExpand : Obligations.PseudoOperationsExpand := by
  refine ⟨decodeHT_of_encode rfl rfl, decodeHT_of_encode rfl rfl, Script.poll_reads, fun n => ?_,
    fun n c => decodeHT_of_encode rfl (encode_wrLut n c), fun w b0 b1 b2 b3 => decodeHT_of_encode rfl (encode_wrIdx w b0 b1 b2 b3),
    fun y => decodeHT_of_encode rfl rfl, fun x y => decodeHT_of_encode rfl rfl, fun w => decodeHT_of_encode rfl rfl,
    fun t b h d l => decodeHT_of_encode rfl rfl⟩
  obtain ⟨hlen, hreads⟩ := Script.poll_reads Script.STATUS n
  exact ⟨hlen, fun ht hmem => (hreads ht hmem).2⟩

end Sys2Proof
end

section
/-! What an operation does, said once for all of exec, and the statements that follow from it operation by operation: reads during the
BUSY window, registers read back, the flags, the sink events and the faults (R54, R64, R119, R170, R171, R200 to R204, R229) -/

namespace Sys2Proof

open Machine

/-! ### What the two writes of many fields leave in each -/

/-- The store of a row-resource write leaves what is no row resource as it was (R108). -/
@[simp] theorem Instr.rowStore_fields (i : Instr) (s : State) :
    (i.rowStore s).werr = s.werr ∧ (i.rowStore s).goerr = s.goerr ∧ (i.rowStore s).panelW = s.panelW ∧
    (i.rowStore s).panelH = s.panelH ∧ (i.rowStore s).events = s.events ∧ (i.rowStore s).responses = s.responses := by
  rw [i.rowStore_frame s]
  exact ⟨rfl, rfl, rfl, rfl, rfl, rfl⟩

namespace Machine

@[simp] theorem State.clearErrors_fields (s : State) (cw cg : Bool) :
    (s.clearErrors cw cg).busy = s.busy ∧ (s.clearErrors cw cg).werr = (s.werr && !cw) ∧
    (s.clearErrors cw cg).goerr = (s.goerr && !cg) ∧ (s.clearErrors cw cg).panelW = s.panelW ∧
    (s.clearErrors cw cg).panelH = s.panelH ∧ (s.clearErrors cw cg).events = s.events :=
  ⟨rfl, rfl, rfl, rfl, rfl, rfl⟩

/-! ### Everything exec can do -/

/-- What an operation that completes in state `s` leaves: one case per effect that the rules of sections 40 to 43 name. -/
inductive Effect (s : State) : Instr → State → Prop where
  | read {i : Instr} (h : i.isRead = true) : Effect s i (s.respond (i.answer s))
  | stored {i : Instr} (h : i.isRowWrite = true) (hb : s.busy = false) : Effect s i (i.rowStore s)
  | discarded {i : Instr} (h : i.isRowWrite = true) (hb : s.busy = true) : Effect s i { s with werr := true }
  | noGo : Effect s (.wrCtrl false) s
  | goAccepted (hb : s.busy = false) : Effect s (.wrCtrl true) { s with busy := true }
  | goDiscarded (hb : s.busy = true) : Effect s (.wrCtrl true) { s with goerr := true }
  | cleared (cw cg : Bool) : Effect s (.wrStatus cw cg) (s.clearErrors cw cg)
  | capsIgnored : Effect s .wrCaps s
  | reservedIgnored (a : BitVec 12) : Effect s (.reservedWr a) s
  | noRow (hb : s.busy = false) : Effect s .row s
  | rowIssued (hb : s.busy = true) (hr : s.rowReady = true) : Effect s .row { s with
      busy := false, events := s.events ++ s.loopPixels ++ (if s.lastRow = true then [SinkEvent.present] else []) }
  | pixelIssued (x y : Coord) (c : Colour) (h : x.toNat < s.panelW ∧ y.toNat < s.panelH) :
      Effect s (.pixelWrite x y c) (s.issue [.pixelWrite x y c])
  | pixelDropped (x y : Coord) (c : Colour) (h : ¬ (x.toNat < s.panelW ∧ y.toNat < s.panelH)) : Effect s (.pixelWrite x y c) s
  | presentIssued : Effect s .present (s.issue [.present])

theorem exec_present (s : State) : exec .present s = .next (s.issue [.present]) := rfl

theorem exec_pixelWrite (x y : Coord) (c : Colour) (s : State) : exec (.pixelWrite x y c) s =
    .next (if x.toNat < s.panelW ∧ y.toNat < s.panelH then s.issue [.pixelWrite x y c] else s) := by
  have hon : s.onPanel x.toNat y.toNat = true ↔ x.toNat < s.panelW ∧ y.toNat < s.panelH := by
    rw [State.onPanel, decide_eq_true_eq]
    omega
  rw [exec, execPixelWrite]
  simp only [hon]

theorem exec_row_idle {s : State} (hb : s.busy = false) : exec .row s = .next s := by
  rw [exec_row, execRow, hb, if_neg Bool.false_ne_true]

/-- Everything exec can do: an operation completes with its effect, or it is ROW with a row pending that is not ready, and faults. -/
theorem exec_spec (i : Instr) (s : State) :
    (∃ t, exec i s = .next t ∧ Effect s i t) ∨
    (i = .row ∧ s.busy = true ∧ s.rowReady = false ∧ ∃ f, exec i s = .fault f) := by
  cases i
  case rdCtrl | rdStatus | rdRowY | rdOffset | rdWidth | rdMeta | rdCaps | rdLut | rdIdx | reservedRd =>
    exact .inl ⟨_, exec_of_isRead rfl s, .read rfl⟩
  case wrRowY | wrOffset | wrWidth | wrMeta | wrLut | wrIdx =>
    cases hb : s.busy with
    | false => exact .inl ⟨_, exec_rowWrite_idle rfl hb, .stored rfl hb⟩
    | true => exact .inl ⟨_, exec_rowWrite_busy rfl hb, .discarded rfl hb⟩
  case wrCtrl go =>
    cases go with
    | false => exact .inl ⟨_, exec_wrCtrl false s, .noGo⟩
    | true =>
      cases hb : s.busy with
      | false => exact .inl ⟨_, exec_go_idle hb, .goAccepted hb⟩
      | true => exact .inl ⟨_, exec_go_busy hb, .goDiscarded hb⟩
  case wrStatus cw cg => exact .inl ⟨_, exec_wrStatus cw cg s, .cleared cw cg⟩
  case wrCaps => exact .inl ⟨_, exec_wrCaps s, .capsIgnored⟩
  case reservedWr a => exact .inl ⟨_, exec_reservedWr a s, .reservedIgnored a⟩
  case row =>
    cases hb : s.busy with
    | false => exact .inl ⟨_, exec_row_idle hb, .noRow hb⟩
    | true =>
      cases hr : s.rowReady with
      | true => exact .inl ⟨_, exec_row_ready hb hr, .rowIssued hb hr⟩
      | false =>
        obtain ⟨-, f, -, -, -, hf⟩ := exec_row_unready hb hr
        exact .inr ⟨rfl, rfl, rfl, f, hf⟩
  case pixelWrite x y c =>
    refine .inl ⟨_, exec_pixelWrite x y c s, ?_⟩
    split_ifs with h
    · exact .pixelIssued x y c h
    · exact .pixelDropped x y c h
  case present => exact .inl ⟨_, exec_present s, .presentIssued⟩

/-- An operation that completes has had its effect. -/
theorem effect_of_exec {i : Instr} {s t : State} (h : exec i s = .next t) : Effect s i t := by
  obtain ⟨t', ht', heff⟩ | ⟨-, -, -, f, hf⟩ := exec_spec i s
  · rw [h] at ht'
    cases ht'
    exact heff
  · rw [h] at hf
    cases hf

/-! ### The flags (R24, R201, R204) -/

/-- WERR is set by a row-resource write during the BUSY window alone (R108). -/
theorem Effect.werr_set {s t : State} {i : Instr} (h : Effect s i t) (ht : t.werr = true) (hs : s.werr = false) :
    i.isRowWrite = true ∧ s.busy = true ∧ t.goerr = s.goerr ∧ t.busy = true := by
  cases h with
  | discarded hw hb => exact ⟨hw, hb, rfl, hb⟩
  | _ => simp [hs] at ht

/-- GOERR is set by a GO during the BUSY window alone (R102). -/
theorem Effect.goerr_set {s t : State} {i : Instr} (h : Effect s i t) (ht : t.goerr = true) (hs : s.goerr = false) :
    i = .wrCtrl true ∧ s.busy = true ∧ t.werr = s.werr ∧ t.busy = true := by
  cases h with
  | goDiscarded hb => exact ⟨rfl, hb, rfl, hb⟩
  | _ => simp [hs] at ht

/-- WERR is cleared by a WR_STATUS that asks for it alone (R105). -/
theorem Effect.werr_cleared {s t : State} {i : Instr} (h : Effect s i t) (hs : s.werr = true) (ht : t.werr = false) :
    ∃ cg, i = .wrStatus true cg := by
  cases h with
  | cleared cw cg => exact ⟨cg, by simpa [hs] using ht⟩
  | _ => simp [hs] at ht

/-- GOERR is cleared by a WR_STATUS that asks for it alone (R105). -/
theorem Effect.goerr_cleared {s t : State} {i : Instr} (h : Effect s i t) (hs : s.goerr = true) (ht : t.goerr = false) :
    ∃ cw, i = .wrStatus cw true := by
  cases h with
  | cleared cw cg => exact ⟨cw, by simpa [hs] using ht⟩
  | _ => simp [hs] at ht

/-- BUSY is set by a GO alone (R102). -/
theorem Effect.busy_set {s t : State} {i : Instr} (h : Effect s i t) (hs : s.busy = false) (ht : t.busy = true) :
    i = .wrCtrl true := by
  cases h with
  | goAccepted hb => rfl
  | _ => simp [hs] at ht

/-- BUSY is cleared by the engine's step alone (R150). -/
theorem Effect.busy_cleared {s t : State} {i : Instr} (h : Effect s i t) (hs : s.busy = true) (ht : t.busy = false) : i = .row := by
  cases h with
  | rowIssued hb hr => rfl
  | _ => simp [hs] at ht

/-! ### The events (R64, R157, R170, R171) -/

/-- A pixel of a column is at the column's position on the panel (R155, R157, R158). -/
theorem State.mem_columnPixels {s : State} {i : Nat} {e : SinkEvent} (h : e ∈ s.columnPixels i) :
    (0 ≤ s.sinkX i ∧ s.sinkX i < s.panelW ∧ 0 ≤ s.sinkY ∧ s.sinkY < s.panelH) ∧
    ∃ c, e = .pixelWrite (BitVec.ofInt 16 (s.sinkX i)) (BitVec.ofInt 16 s.sinkY) c := by
  unfold State.columnPixels at h
  cases hn : s.idxAt i with
  | none => simp [hn] at h
  | some n =>
    cases hc : s.classify i n with
    | transparent => simp [hn, hc] at h
    | dropped => simp [hn, hc] at h
    | written m =>
      refine ⟨?_, ?_⟩
      · rw [State.classify_eq] at hc
        split_ifs at hc with _ hon
        exact hon
      · cases hm : s.lutAt m with
        | none => simp [hn, hc, hm] at h
        | some c => exact ⟨c, by simpa [hn, hc, hm] using h⟩

/-- A coordinate on the panel fits its 16-bit field (R9, R64). -/
theorem toNat_ofInt_of_lt {x : Int} {n : Nat} (hn : n ≤ 4096) (h0 : 0 ≤ x) (hx : x < n) :
    ((BitVec.ofInt 16 x).toNat : Int) = x := by
  rw [BitVec.toNat_ofInt]
  omega

/-- A column issues one pixel at most. -/
theorem State.columnPixels_pairwise (s : State) (i : Nat) {R : SinkEvent → SinkEvent → Prop} : (s.columnPixels i).Pairwise R := by
  unfold State.columnPixels
  repeat' split
  all_goals simp

/-- The sink's column of a pixel is the column's own position. -/
theorem State.column_of_mem_columnPixels {s : State} (hw : s.panelW ≤ 4096) {i : Nat} {e : SinkEvent} (h : e ∈ s.columnPixels i)
    {x : Nat} (hx : e.column = some x) : (x : Int) = s.sinkX i := by
  obtain ⟨⟨hx0, hxw, -, -⟩, c, rfl⟩ := State.mem_columnPixels h
  rw [← Option.some.inj hx]
  exact toNat_ofInt_of_lt hw hx0 hxw

/-- A row's pixels are on the panel. -/
theorem State.loopPixels_inPanel {s : State} (hw : s.panelW ≤ 4096) (hh : s.panelH ≤ 4096) :
    ∀ e ∈ s.loopPixels, e.inPanel s.panelW s.panelH = true := by
  intro e he
  rw [State.loopPixels_eq_flatMap, List.mem_flatMap] at he
  obtain ⟨i, -, hi⟩ := he
  obtain ⟨⟨hx0, hxw, hy0, hyh⟩, c, rfl⟩ := State.mem_columnPixels hi
  have hx := toNat_ofInt_of_lt hw hx0 hxw
  have hy := toNat_ofInt_of_lt hh hy0 hyh
  rw [SinkEvent.inPanel, decide_eq_true_eq]
  omega

/-- A row's pixels go left to right (R55). -/
theorem State.loopPixels_leftToRight {s : State} (hw : s.panelW ≤ 4096) :
    (s.loopPixels.filterMap SinkEvent.column).Pairwise (· < ·) := by
  rw [State.loopPixels_eq_flatMap, List.pairwise_filterMap, List.pairwise_flatMap]
  refine ⟨fun i _ => ?_, List.pairwise_lt_range.imp fun {i j} hij e he e' he' x hx x' hx' => ?_⟩
  · exact s.columnPixels_pairwise i
  · have hex := State.column_of_mem_columnPixels hw he hx
    have hex' := State.column_of_mem_columnPixels hw he' hx'
    rw [State.sinkX] at hex hex'
    omega

/-- The events an operation adds are on the panel. -/
theorem Effect.events_inPanel {s t : State} {i : Instr} (h : Effect s i t) (hw : s.panelW ≤ 4096) (hh : s.panelH ≤ 4096) :
    ∃ es, t.events = s.events ++ es ∧ ∀ e ∈ es, e.inPanel s.panelW s.panelH = true := by
  cases h with
  | rowIssued hb hr =>
    refine ⟨_, List.append_assoc _ _ _, fun e he => ?_⟩
    rcases List.mem_append.mp he with he | he
    · exact State.loopPixels_inPanel hw hh e he
    · obtain rfl : e = .present := by
        split_ifs at he
        · exact List.mem_singleton.mp he
        · cases he
      rfl
  | pixelIssued x y c hon => exact ⟨_, rfl, by simpa [SinkEvent.inPanel] using hon⟩
  | presentIssued => exact ⟨_, rfl, by simp [SinkEvent.inPanel]⟩
  | _ => exact ⟨[], by simp⟩

/-- Only the engine's operation and the sink's own add events (R170, R171). -/
theorem Effect.events_eq {s t : State} {i : Instr} (h : Effect s i t)
    (hi : i.mnemonic ≠ .ROW ∧ i.mnemonic ≠ .PIXEL_WRITE ∧ i.mnemonic ≠ .PRESENT) : t.events = s.events := by
  obtain ⟨hrow, hpixel, hpresent⟩ := hi
  cases h with
  | rowIssued => exact absurd rfl hrow
  | pixelIssued => exact absurd rfl hpixel
  | presentIssued => exact absurd rfl hpresent
  | _ => simp

/-! ### Reads (R119) -/

/-- Only RD_STATUS looks at BUSY (R119). -/
theorem answer_setBusy {i : Instr} (h : i ≠ .rdStatus) (s : State) (b : Bool) : i.answer (s.setBusy b) = i.answer s := by
  cases i
  case rdStatus => exact absurd rfl h
  all_goals rfl

/-- The error flags of the STATUS word do not depend on BUSY (R104). -/
theorem State.statusWord_setBusy (s : State) (b : Bool) : (s.setBusy b).statusWord.extractLsb' 1 31 = s.statusWord.extractLsb' 1 31 := by
  ext k hk
  simp [State.statusWord]

/-- A row-resource write while BUSY = 0 and a read after it: the answer is that of the stored state. -/
theorem exec_write_read {i j : Instr} (hi : i.isRowWrite = true) (hj : j.isRead = true) {s : State} (hb : s.busy = false) {w : Word}
    (hw : j.answer (i.rowStore s) = w) :
    ∃ t u, exec i s = .next t ∧ exec j t = .next u ∧ u.responses = s.responses ++ [w] :=
  ⟨_, _, exec_rowWrite_idle hi hb, exec_of_isRead hj _, by simp [hw]⟩

end Machine

/-! ### The words read back (R229) -/

/-- The low field of a word, put back where it was, is the word under the field's mask. -/
theorem setWidth_lowField (d : Word) (n : Nat) : (d.extractLsb' 0 n).setWidth 32 = d &&& (BitVec.allOnes n).setWidth 32 := by
  ext i hi
  simp [hi, Bool.and_comm]

theorem offsetBits_of_fields (d : Word) : offsetBits (d.extractLsb' 0 16) (d.extractLsb' 16 16) = d := by
  ext i hi
  simp [offsetBits]
  grind

theorem metaBits_of_fields (d : Word) :
    metaBits (d.extractLsb' 0 8) (d.extractLsb' 8 8) (d.getLsbD 16) (d.extractLsb' 17 3) (d.getLsbD 20) =
      (d.extractLsb' 0 21).setWidth 32 := by
  ext i hi
  simp [metaBits]
  grind

/-! ### The obligations -/

/-- Settles O41: a flag is set by the write that the BUSY window discards. -/
theorem oneFlagPerTransaction : Obligations.OneFlagPerTransaction := fun _ _ _ h =>
  ⟨(effect_of_exec h).werr_set, (effect_of_exec h).goerr_set⟩

/-- Settles O51: exec completes or is a pending row that is not ready. -/
theorem onlyRowFaults : Obligations.OnlyRowFaults := by
  intro i s
  obtain ⟨t, ht, -⟩ | ⟨hi, hb, hr, f, hf⟩ := exec_spec i s
  · rw [ht]
    exact ⟨nofun, nofun⟩
  · rw [hf]
    exact ⟨nofun, fun _ _ => ⟨hi, hb, hr⟩⟩

/-- Settles O50: the two operations of the sink by their equations. -/
theorem sinkEventsAppend : Obligations.SinkEventsAppend := fun s x y c =>
  ⟨fun h => by rw [exec_pixelWrite, if_pos h]; rfl, fun h => by rw [exec_pixelWrite, if_neg h], exec_present s⟩

/-- Settles O37: a row's pixels are on the panel because the others are dropped, and a PIXEL_WRITE alone passes the same test. -/
theorem eventsStayOnPanel : Obligations.EventsStayOnPanel := fun _ _ _ hw hh h => (effect_of_exec h).events_inPanel hw hh

/-- Settles O35: the columns are taken in order, and each pixel's position is its column's. -/
theorem rowLeftToRight : Obligations.RowLeftToRight := by
  intro s t hw hb h
  obtain rfl := exec_row_next hb h
  refine ⟨_, List.append_assoc _ _ _, ?_⟩
  have hpresent : (if s.lastRow = true then [SinkEvent.present] else []).filterMap SinkEvent.column = [] := by
    split_ifs <;> rfl
  rw [List.filterMap_append, hpresent, List.append_nil]
  exact State.loopPixels_leftToRight hw

/-- Settles O26: no answer but the STATUS word looks at BUSY, and that word has BUSY in bit 0 alone. -/
theorem readsSameDuringBusy : Obligations.ReadsSameDuringBusy := by
  refine fun i s hi => ⟨i.answer s, fun b => ⟨i.answer (s.setBusy b), exec_of_isRead hi (s.setBusy b), ?_⟩⟩
  by_cases hstatus : i = .rdStatus
  · subst hstatus
    exact ⟨s.statusWord_setBusy b, fun h => absurd rfl h, fun _ => (s.setBusy b).statusWord_bits.1⟩
  · exact ⟨by rw [answer_setBusy hstatus], fun _ => answer_setBusy hstatus s b, fun h => absurd h hstatus⟩

/-- Settles O27: the fields that a write takes from the data word are put back at the same bits by the read. -/
theorem registersReadBack : Obligations.RegistersReadBack := by
  refine ⟨fun s a b d hb m hm ha hb' => ?_, fun s a b d hb hlo hhi hab => ?_⟩
  · simp only [decodeHT_htMake_write, decodeHT_htMake_read, decodeWrite, decodeRead]
    simp only [List.mem_cons, List.not_mem_nil, or_false] at hm
    obtain rfl | rfl | rfl | rfl := hm
    · rw [addressMap_rowY ha, addressMap_rowY hb']
      exact exec_write_read rfl rfl hb (setWidth_lowField d 16)
    · rw [addressMap_offset ha, addressMap_offset hb']
      exact exec_write_read rfl rfl hb ((offsetBits_of_fields d).trans (BitVec.and_allOnes).symm)
    · rw [addressMap_width ha, addressMap_width hb']
      exact exec_write_read rfl rfl hb (setWidth_lowField d 16)
    · rw [addressMap_metaWord ha, addressMap_metaWord hb']
      exact exec_write_read rfl rfl hb ((metaBits_of_fields d).trans (setWidth_lowField d 21))
  · have hlut : addressMap a = .lut (a.extractLsb' 2 8) := addressMap_lut (by omega)
    rw [decodeHT_htMake_congr false 0 hab, decodeHT_htMake_write, decodeHT_htMake_read, decodeWrite, decodeRead, hlut]
    refine exec_write_read rfl rfl hb ?_
    show ((s.putLut _ _).lutOut _).setWidth 32 = _
    rw [State.lutOut_of_written (State.lutAt_putLut_same s _ _)]
    exact setWidth_lowField d 16

end Sys2Proof
end

section
/-! The step: which move it takes, what each agent's move can do to the flags and the events, the composition of a pending row, and the
invariant that every step keeps (R24, R30, R35, R150, R204, R220 to R222, R233) -/

namespace Sys2Proof

open Machine

/-- The panel is at most 4096 high (R9). -/
theorem Config.panelH_le : Config.panelH ≤ 4096 := Config.panelHLess1.isLt

namespace Machine

/-! ### The step, move by move -/

theorem step_packet {s : State} {p : Packet} {rest : List Move} {i : Instr} (h : s.inbox = .packet p :: rest)
    (hp : decode p = .ok i) : step s = exec i { s with inbox := rest } := by
  simp only [step, State.nextMove, h, hp]

theorem step_undecodable {s : State} {p : Packet} {rest : List Move} {e : DecodeError} (h : s.inbox = .packet p :: rest)
    (hp : decode p = .error e) : step s = .refused (.undecodable e) := by
  simp only [step, State.nextMove, h, hp]

theorem step_reset {s : State} {rest : List Move} (h : s.inbox = .reset :: rest) :
    step s = .next (State.resetStep { s with inbox := rest }) := by
  simp only [step, State.nextMove, h]

theorem step_pending {s : State} (h : s.inbox = []) (hb : s.busy = true) : step s = exec .row s := by
  simp only [step, State.nextMove, h, hb, if_true, decode]

theorem step_idle {s : State} (h : s.inbox = []) (hb : s.busy = false) : step s = .next s := by
  simp only [step, State.nextMove, h, hb, Bool.false_eq_true, if_false]

/-! ### Runs -/

theorem run_succ {s t : State} (h : step s = .next t) (k : Nat) : core.run (k + 1) s = core.run k t := by
  have hcore : core.step s = .next t := h
  simp only [Host.Core.run, hcore]

/-- Transactions during the BUSY window, and then nothing more to come: the run reaches the engine's step on a state that differs in
the error flags and the words returned alone (R62). -/
theorem run_busy (hts : List HT) {s : State} (hb : s.busy = true)
    (hin : s.inbox = hts.map fun ht => Move.packet (.transaction ht)) (k : Nat) :
    ∃ we ge rs, core.run (hts.length + k) s =
      core.run k { s with werr := we, goerr := ge, responses := rs, inbox := [] } := by
  induction hts generalizing s with
  | nil =>
    refine ⟨s.werr, s.goerr, s.responses, ?_⟩
    rw [List.length_nil, Nat.zero_add, ← show s.inbox = [] from hin]
  | cons ht hts ih =>
    obtain ⟨we, ge, rs, hexec⟩ := exec_decodeHT_busy ht (s := { s with inbox := hts.map fun ht => .packet (.transaction ht) }) hb
    have hstep := (step_transaction hin).trans hexec
    obtain ⟨we', ge', rs', hrun⟩ := ih (s := { s with
      werr := we, goerr := ge, responses := rs, inbox := hts.map fun ht => .packet (.transaction ht) }) hb rfl
    exact ⟨we', ge', rs', by rw [List.length_cons, Nat.add_right_comm, run_succ hstep, hrun]⟩

/-! ### A row of no columns (R151) -/

theorem State.rowReady_of_wEff_eq_zero {s : State} (h : s.wEff = 0) : s.rowReady = true := by
  rw [State.rowReady, h]
  rfl

theorem State.loopPixels_of_wEff_eq_zero {s : State} (h : s.wEff = 0) : s.loopPixels = [] := by
  rw [State.loopPixels_eq_flatMap, h]
  rfl

/-! ### Table words -/

/-- The one packet of no bits is the engine's (R150). -/
theorem tablePacket_engineStep_iff {nbits w : Nat} {p : Packet} (h : tablePacket nbits w = some p) :
    p = .engineStep ↔ nbits = 0 := by
  unfold tablePacket at h
  split_ifs at h with hbits <;> cases h
  all_goals simp [hbits]

theorem tablePacket_of_decodeTableWord {nbits w : Nat} {i : Instr} (h : decodeTableWord nbits w = some i) :
    ∃ p, tablePacket nbits w = some p ∧ decode p = .ok i := by
  unfold decodeTableWord at h
  cases hp : tablePacket nbits w with
  | none => simp [hp] at h
  | some p =>
    cases hd : decode p with
    | error e => simp [hp, hd] at h
    | ok j => exact ⟨p, rfl, by simpa [hp, hd] using h⟩

/-! ### What no step changes, and what every step keeps -/

/-- A step that answers a next state is an operation with the move taken, a reset, or no move. -/
theorem step_next_cases {s t : State} (h : step s = .next t) :
    (∃ i inbox, exec i { s with inbox := inbox } = .next t) ∨ (∃ inbox, t = State.resetStep { s with inbox := inbox }) ∨ t = s := by
  rcases step_next h with ⟨ht, rest, -, h⟩ | ⟨rest, -, h⟩ | ⟨se, i, rest, -, -, h⟩ | ⟨rest, -, h⟩ | ⟨-, -, h⟩ | ⟨-, -, h⟩
  · exact .inl ⟨_, _, h⟩
  · exact .inl ⟨.row, _, h⟩
  · exact .inl ⟨i, _, h⟩
  · exact .inr (.inl ⟨_, h⟩)
  · exact .inl ⟨.row, s.inbox, h⟩
  · exact .inr (.inr h)

/-- No operation changes the panel (R30). -/
theorem Effect.panel {s t : State} {i : Instr} (h : Effect s i t) : t.panelW = s.panelW ∧ t.panelH = s.panelH := by
  cases h <;> simp

/-- Both memories are in canonical form and inside their address spaces (R31, R32): the invariant's part about memories. -/
def State.MemoriesInForm (s : State) : Prop :=
  (Memory.wf s.lut ∧ ∀ c ∈ s.lut, c.1 < 256) ∧ (Memory.wf s.idx ∧ ∀ c ∈ s.idx, c.1 < s.panelW)

/-- Every store keeps the memories in form (R130, R140). -/
theorem State.MemoriesInForm.rowStore {s : State} (h : s.MemoriesInForm) (i : Instr) : (i.rowStore s).MemoriesInForm := by
  obtain ⟨hlut, hidx⟩ := h
  cases i
  case wrLut n c => exact ⟨State.putLut_keepsForm n c hlut, hidx⟩
  case wrIdx w b0 b1 b2 b3 =>
    show (s.putIdx w b0 b1 b2 b3).MemoriesInForm
    rw [State.MemoriesInForm, State.putIdx_lut, State.putIdx_panelW]
    exact ⟨hlut, State.putIdx_keepsForm w b0 b1 b2 b3 hidx⟩
  all_goals exact ⟨hlut, hidx⟩

/-- Every operation keeps the memories in form. -/
theorem Effect.memoriesInForm {s t : State} {i : Instr} (h : Effect s i t) (hs : s.MemoriesInForm) : t.MemoriesInForm := by
  cases h with
  | stored hw hb => exact hs.rowStore i
  | _ => exact hs

/-- The invariant, its parts about memories taken together. -/
theorem State.inv_iff (s : State) : s.Inv ↔ s.MemoriesInForm ∧ (1 ≤ s.panelW ∧ s.panelW ≤ 4096) ∧
    (1 ≤ s.panelH ∧ s.panelH ≤ 4096) ∧ ∀ e ∈ s.events, e.inPanel s.panelW s.panelH = true := by
  simp only [State.Inv, State.MemoriesInForm, and_assoc]

/-- Every operation keeps the invariant: it keeps the memories in form and the panel, and adds events on the panel. -/
theorem Effect.inv {s t : State} {i : Instr} (h : Effect s i t) (hs : s.Inv) : t.Inv := by
  rw [State.inv_iff] at hs ⊢
  obtain ⟨hform, hw, hh, hon⟩ := hs
  obtain ⟨es, hes, hadded⟩ := h.events_inPanel hw.2 hh.2
  obtain ⟨hpw, hph⟩ := h.panel
  rw [hpw, hph, hes]
  exact ⟨h.memoriesInForm hform, hw, hh, fun e he => (List.mem_append.mp he).elim (hon e) (hadded e)⟩

/-- A reset keeps the invariant: it empties the memories and keeps the panel and the events (R220). -/
theorem State.Inv.resetStep {s : State} (h : s.Inv) : s.resetStep.Inv := by
  obtain ⟨-, -, -, -, hw, hh, hon⟩ := h
  exact ⟨.nil, nofun, .nil, nofun, hw, hh, hon⟩

/-! ### What each agent's move leaves alone -/

/-- The engine's step sets and clears no error flag (R201). -/
theorem execRow_errorFlags {s t : State} (h : execRow s = .next t) : t.werr = s.werr ∧ t.goerr = s.goerr := by
  obtain ⟨-, rfl⟩ | ⟨-, es, -, rfl⟩ := execRow_next h <;> exact ⟨rfl, rfl⟩

/-- The engine adds events with a row pending alone, and then clears BUSY (R150). -/
theorem execRow_events_changed {s t : State} (h : execRow s = .next t) (hne : t.events ≠ s.events) :
    s.busy = true ∧ t.busy = false := by
  obtain ⟨-, rfl⟩ | ⟨hb, es, -, rfl⟩ := execRow_next h
  · exact absurd rfl hne
  · exact ⟨hb, rfl⟩

/-- A sink event word alone leaves the flags as they were (R201). -/
theorem Effect.flags_of_sinkEvent {s t : State} {se : SE} {i : Instr} (h : Effect s i t) (hi : decodeSE se = .ok i) :
    t.busy = s.busy ∧ t.werr = s.werr ∧ t.goerr = s.goerr := by
  obtain rfl | ⟨x, y, c, rfl⟩ := decodeSE_ok hi
  · cases h with
    | presentIssued => exact ⟨rfl, rfl, rfl⟩
    | read h | stored h | discarded h => cases h
  · cases h with
    | pixelIssued | pixelDropped => exact ⟨rfl, rfl, rfl⟩
    | read h | stored h | discarded h => cases h

/-- A step leaves the error flags as they were, or it is a reset or a transaction with its effect (R24). -/
theorem step_errorFlags {s t : State} (h : step s = .next t) :
    s.inbox.head? = some .reset ∨
    (∃ ht rest, s.inbox.head? = some (.packet (.transaction ht)) ∧ Effect { s with inbox := rest } (decodeHT ht) t) ∨
    (t.werr = s.werr ∧ t.goerr = s.goerr) := by
  rcases step_next h with ⟨ht, rest, hin, h⟩ | ⟨rest, -, h⟩ | ⟨se, i, rest, -, hi, h⟩ | ⟨rest, hin, -⟩ | ⟨-, -, h⟩ | ⟨-, -, rfl⟩
  · exact .inr (.inl ⟨ht, rest, by rw [hin]; rfl, effect_of_exec h⟩)
  · exact .inr (.inr (execRow_errorFlags (s := { s with inbox := rest }) h))
  · exact .inr (.inr ((effect_of_exec h).flags_of_sinkEvent hi).2)
  · exact .inl (by rw [hin]; rfl)
  · exact .inr (.inr (execRow_errorFlags h))
  · exact .inr (.inr ⟨rfl, rfl⟩)

end Machine

/-! ### The obligations -/

/-- Settles O44: every operation and the reset keep the invariant, which does not look at the moves to come. -/
theorem everyStepKeepsInvariant : Obligations.EveryStepKeepsInvariant := by
  intro s t hs h
  obtain ⟨i, inbox, h⟩ | ⟨inbox, rfl⟩ | rfl := step_next_cases h
  · exact (effect_of_exec h).inv (s := { s with inbox := inbox }) hs
  · exact State.Inv.resetStep (s := { s with inbox := inbox }) hs
  · exact hs

/-- Settles O45: the memories are empty, no event is issued and the panel is the configured one, within its bounds. -/
theorem invariantHoldsAtReset : Obligations.InvariantHoldsAtReset :=
  ⟨.nil, nofun, .nil, nofun, ⟨Nat.le_add_left 1 _, Config.panelW_le⟩, ⟨Nat.le_add_left 1 _, Config.panelH_le⟩, nofun⟩

/-- Settles O46: no operation and no reset changes the panel. -/
theorem panelNeverChanges : Obligations.PanelNeverChanges := by
  intro s t h
  obtain ⟨i, inbox, h⟩ | ⟨inbox, rfl⟩ | rfl := step_next_cases h
  · exact (effect_of_exec h).panel
  · exact ⟨rfl, rfl⟩
  · exact ⟨rfl, rfl⟩

/-- Settles O38: a transaction and a reset add no event, and the engine adds events with a row pending alone. -/
theorem eventsOnlyFromRow : Obligations.EventsOnlyFromRow := by
  intro s t hspec h hne
  rcases step_next h with ⟨ht, rest, hin, h⟩ | ⟨rest, hin, h⟩ | ⟨se, i, rest, hin, -, h⟩ | ⟨rest, hin, rfl⟩ | ⟨hin, hb, h⟩ |
    ⟨hin, hb, rfl⟩
  · exact absurd ((effect_of_exec h).events_eq (decodeHT_isHost ht)) hne
  · obtain ⟨hb, hb'⟩ := execRow_events_changed h hne
    exact ⟨hb, hb', .inr (by rw [hin]; rfl)⟩
  · cases hspec (.packet (.sinkEvent se)) (by rw [hin]; rfl)
  · exact absurd rfl hne
  · obtain ⟨hb, hb'⟩ := execRow_events_changed h hne
    exact ⟨hb, hb', .inl hin⟩
  · exact absurd rfl hne

/-- Settles O39: the transaction that clears a flag is a WR_STATUS asking for it. -/
theorem stickyErrorFlags : Obligations.StickyErrorFlags := by
  intro s t h
  obtain hreset | ⟨ht, rest, hin, heff⟩ | ⟨hw, hg⟩ := step_errorFlags h
  · exact ⟨fun _ _ => .inl hreset, fun _ _ => .inl hreset⟩
  · refine ⟨fun hs ht' => ?_, fun hs ht' => ?_⟩
    · obtain ⟨cg, hi⟩ := heff.werr_cleared hs ht'
      exact .inr ⟨ht, cg, hin, hi⟩
    · obtain ⟨cw, hi⟩ := heff.goerr_cleared hs ht'
      exact .inr ⟨ht, cw, hin, hi⟩
  · exact ⟨fun hs ht' => by simp [hw, hs] at ht', fun hs ht' => by simp [hg, hs] at ht'⟩

/-- Settles O40: of the moves only a GO sets BUSY, and only the engine's step and a reset clear it. -/
theorem busyWindowBounds : Obligations.BusyWindowBounds := by
  intro s t h
  rcases step_next h with ⟨ht, rest, hin, h⟩ | ⟨rest, hin, h⟩ | ⟨se, i, rest, -, hi, h⟩ | ⟨rest, hin, rfl⟩ | ⟨hin, hb, -⟩ |
    ⟨hin, hb, rfl⟩
  · refine ⟨fun hs ht' => ⟨ht, by rw [hin]; rfl, (effect_of_exec h).busy_set hs ht'⟩, fun hs ht' => ?_⟩
    exact absurd ((effect_of_exec h).busy_cleared hs ht') (decodeHT_ne_row ht)
  · refine ⟨fun hs ht' => ?_, fun _ _ => .inr (.inl (by rw [hin]; rfl))⟩
    cases (effect_of_exec (i := .row) h).busy_set hs ht'
  · have hbusy : t.busy = s.busy := ((effect_of_exec h).flags_of_sinkEvent hi).1
    exact ⟨fun hs ht' => by simp [hbusy, hs] at ht', fun hs ht' => by simp [hbusy, hs] at ht'⟩
  · exact ⟨nofun, fun _ _ => .inr (.inr (by rw [hin]; rfl))⟩
  · exact ⟨fun hs => by simp [hb] at hs, fun _ _ => .inl hin⟩
  · exact ⟨fun hs ht' => by simp [hs] at ht', fun _ _ => .inl hin⟩

/-- Settles O43: the transactions leave the row resources alone, and with no move left the step is the engine's. -/
theorem pendingRowIsComposited : Obligations.PendingRowIsComposited := by
  intro hts s hb hr hin
  obtain ⟨we, ge, rs, hrun⟩ := run_busy hts hb hin 1
  let t : State := { s with werr := we, goerr := ge, responses := rs, inbox := [] }
  have hrow : step t = exec .row t := step_pending rfl hb
  rw [exec_row_ready (s := t) hb hr] at hrow
  exact ⟨_, hrun.trans (run_succ hrow 0), rfl, rfl, rfl⟩

/-- Settles O9: the packet's arm of the step. -/
theorem stepRunsDecodedPacket : Obligations.StepRunsDecodedPacket := fun _ _ _ _ => step_packet

/-- Settles O10: the arms of the step without an operation to run, and ROW without a pending row. -/
theorem stepWithoutTransaction : Obligations.StepWithoutTransaction :=
  ⟨fun _ => step_pending, fun _ => step_idle, fun _ => exec_row_idle,
    fun _ _ _ h htype hpay => step_undecodable h (decodeSE_payload htype hpay)⟩

/-- Settles O11: the placed packet is the first move, and only the engine's packet, which has no bits, makes a row pending. -/
theorem tableWordRunsNext : Obligations.TableWordRunsNext := by
  intro s nbits w i h
  obtain ⟨p, hp, hi⟩ := tablePacket_of_decodeTableWord h
  have hbits : decide (p = .engineStep) = (nbits == 0) := by
    rw [Bool.eq_iff_iff, decide_eq_true_eq, beq_iff_eq]
    exact tablePacket_engineStep_iff hp
  have hplace : s.withFetchWord nbits w = s.place p := by simp only [State.withFetchWord, hp]
  rw [hplace, step_packet (s := s.place p) rfl hi, State.place, hbits]

/-- Settles O48: the reset's arm of the step. -/
theorem resetFromAnyState : Obligations.ResetFromAnyState := fun _ _ h =>
  ⟨_, step_reset h, rfl, rfl, rfl, rfl, rfl, rfl, rfl, rfl, rfl, rfl, rfl, rfl, fun _ => rfl, fun _ => rfl, rfl, rfl, rfl, rfl⟩

/-- Settles O49: the GO makes a row pending, and a row of width 0 reads nothing and issues nothing. -/
theorem firstGoHarmless : Obligations.FirstGoHarmless := by
  have hgo : decode (.transaction Script.go) = .ok (.wrCtrl true) := rfl
  have hwEff : State.wEff { State.reset with busy := true } = 0 := Nat.zero_min _
  have hrow : exec .row { State.reset with busy := true } = .next State.reset := by
    rw [exec_row_ready rfl (State.rowReady_of_wEff_eq_zero hwEff), State.loopPixels_of_wEff_eq_zero hwEff]
    rfl
  exact (run_succ ((step_packet rfl hgo).trans (exec_go_idle rfl)) 1).trans
    (run_succ ((step_packet (p := .engineStep) rfl rfl).trans hrow) 0)

end Sys2Proof
end
